-- ==== Sys2Proof/Word.lean ====
section
/-! DEFINITION. The word types of the machine (00_scope.md R9, R11): a word is 32 bits, a byte 8, a register field of
an instruction 4. All arithmetic on words is modulo 2^32 unless a rule widens first. -/

namespace Sys2Proof

/-- 32 bits (R11). -/
abbrev Word := BitVec 32

/-- 16 bits (R11). -/
abbrev Half := BitVec 16

/-- 8 bits (R11). -/
abbrev Byte := BitVec 8

/-- A register field: R0 to R15 of the current mode (R21). -/
abbrev Reg := BitVec 4

end Sys2Proof
end

