-- ==== Sys2Proof/Config.lean ====
section
/-! DEFINITION. The free values: constants without a body, so that nothing proved of the machine depends on what they
are. They stand for the spec's `draw` (00_scope.md R12, assumption log 15). The step applies them to the draw counter
that State holds, so that each draw is a fresh one. -/

namespace Sys2Proof

/-- The `n`-th drawn word (R12 `draw`; R191, R194, R280). Log 15. -/
opaque Config.freeWord : Nat → BitVec 32

/-- The memory contents drawn by the `n`-th draw: a reset event leaves memory unspecified (R43, R280). Log 13. -/
opaque Config.freeCells : Nat → List (BitVec 32 × BitVec 8)

end Sys2Proof
end

