-- ==== Sys2Proof/Syntax.lean ====
section
/-! DEFINITION. The instruction set as syntax: one constructor per row of spec/opcode_table.json (30_encoding.md R86), in
the table's order, with the fields of the row (R72, R117). Field names: `c` the condition, `sb` the S bit, `rot` and
`imm8` the rotated immediate (R83), `amt` the 5-bit shift amount, `sh` the shift type (R82), `p u w` the P, U and W bits
(R150), `list` the register list (R170), `off` an offset field. -/

namespace Sys2Proof

/-- The condition field, Table 2-2 (R74). The code 0b1111 is no condition (R76). -/
inductive Cond where
  | eq | ne | cs | cc | mi | pl | vs | vc | hi | ls | ge | lt | gt | le | al
deriving DecidableEq, Repr

/-- The shift type, bits 6:5 of a register operand 2 (R82). -/
inductive ShiftType where
  | lsl | lsr | asr | ror
deriving DecidableEq, Repr

/-- One constructor per row of spec/opcode_table.json. -/
inductive Instr where
  | andImm (c : Cond) (sb : Bool) (rn rd : Reg) (rot : BitVec 4) (imm8 : BitVec 8)
  | andShiftImm (c : Cond) (sb : Bool) (rn rd : Reg) (amt : BitVec 5) (sh : ShiftType) (rm : Reg)
  | andShiftReg (c : Cond) (sb : Bool) (rn rd rs : Reg) (sh : ShiftType) (rm : Reg)
  | eorImm (c : Cond) (sb : Bool) (rn rd : Reg) (rot : BitVec 4) (imm8 : BitVec 8)
  | eorShiftImm (c : Cond) (sb : Bool) (rn rd : Reg) (amt : BitVec 5) (sh : ShiftType) (rm : Reg)
  | eorShiftReg (c : Cond) (sb : Bool) (rn rd rs : Reg) (sh : ShiftType) (rm : Reg)
  | subImm (c : Cond) (sb : Bool) (rn rd : Reg) (rot : BitVec 4) (imm8 : BitVec 8)
  | subShiftImm (c : Cond) (sb : Bool) (rn rd : Reg) (amt : BitVec 5) (sh : ShiftType) (rm : Reg)
  | subShiftReg (c : Cond) (sb : Bool) (rn rd rs : Reg) (sh : ShiftType) (rm : Reg)
  | rsbImm (c : Cond) (sb : Bool) (rn rd : Reg) (rot : BitVec 4) (imm8 : BitVec 8)
  | rsbShiftImm (c : Cond) (sb : Bool) (rn rd : Reg) (amt : BitVec 5) (sh : ShiftType) (rm : Reg)
  | rsbShiftReg (c : Cond) (sb : Bool) (rn rd rs : Reg) (sh : ShiftType) (rm : Reg)
  | addImm (c : Cond) (sb : Bool) (rn rd : Reg) (rot : BitVec 4) (imm8 : BitVec 8)
  | addShiftImm (c : Cond) (sb : Bool) (rn rd : Reg) (amt : BitVec 5) (sh : ShiftType) (rm : Reg)
  | addShiftReg (c : Cond) (sb : Bool) (rn rd rs : Reg) (sh : ShiftType) (rm : Reg)
  | adcImm (c : Cond) (sb : Bool) (rn rd : Reg) (rot : BitVec 4) (imm8 : BitVec 8)
  | adcShiftImm (c : Cond) (sb : Bool) (rn rd : Reg) (amt : BitVec 5) (sh : ShiftType) (rm : Reg)
  | adcShiftReg (c : Cond) (sb : Bool) (rn rd rs : Reg) (sh : ShiftType) (rm : Reg)
  | sbcImm (c : Cond) (sb : Bool) (rn rd : Reg) (rot : BitVec 4) (imm8 : BitVec 8)
  | sbcShiftImm (c : Cond) (sb : Bool) (rn rd : Reg) (amt : BitVec 5) (sh : ShiftType) (rm : Reg)
  | sbcShiftReg (c : Cond) (sb : Bool) (rn rd rs : Reg) (sh : ShiftType) (rm : Reg)
  | rscImm (c : Cond) (sb : Bool) (rn rd : Reg) (rot : BitVec 4) (imm8 : BitVec 8)
  | rscShiftImm (c : Cond) (sb : Bool) (rn rd : Reg) (amt : BitVec 5) (sh : ShiftType) (rm : Reg)
  | rscShiftReg (c : Cond) (sb : Bool) (rn rd rs : Reg) (sh : ShiftType) (rm : Reg)
  | tstImm (c : Cond) (rn : Reg) (rot : BitVec 4) (imm8 : BitVec 8)
  | tstShiftImm (c : Cond) (rn : Reg) (amt : BitVec 5) (sh : ShiftType) (rm : Reg)
  | tstShiftReg (c : Cond) (rn rs : Reg) (sh : ShiftType) (rm : Reg)
  | teqImm (c : Cond) (rn : Reg) (rot : BitVec 4) (imm8 : BitVec 8)
  | teqShiftImm (c : Cond) (rn : Reg) (amt : BitVec 5) (sh : ShiftType) (rm : Reg)
  | teqShiftReg (c : Cond) (rn rs : Reg) (sh : ShiftType) (rm : Reg)
  | cmpImm (c : Cond) (rn : Reg) (rot : BitVec 4) (imm8 : BitVec 8)
  | cmpShiftImm (c : Cond) (rn : Reg) (amt : BitVec 5) (sh : ShiftType) (rm : Reg)
  | cmpShiftReg (c : Cond) (rn rs : Reg) (sh : ShiftType) (rm : Reg)
  | cmnImm (c : Cond) (rn : Reg) (rot : BitVec 4) (imm8 : BitVec 8)
  | cmnShiftImm (c : Cond) (rn : Reg) (amt : BitVec 5) (sh : ShiftType) (rm : Reg)
  | cmnShiftReg (c : Cond) (rn rs : Reg) (sh : ShiftType) (rm : Reg)
  | orrImm (c : Cond) (sb : Bool) (rn rd : Reg) (rot : BitVec 4) (imm8 : BitVec 8)
  | orrShiftImm (c : Cond) (sb : Bool) (rn rd : Reg) (amt : BitVec 5) (sh : ShiftType) (rm : Reg)
  | orrShiftReg (c : Cond) (sb : Bool) (rn rd rs : Reg) (sh : ShiftType) (rm : Reg)
  | movImm (c : Cond) (sb : Bool) (rd : Reg) (rot : BitVec 4) (imm8 : BitVec 8)
  | movShiftImm (c : Cond) (sb : Bool) (rd : Reg) (amt : BitVec 5) (sh : ShiftType) (rm : Reg)
  | movShiftReg (c : Cond) (sb : Bool) (rd rs : Reg) (sh : ShiftType) (rm : Reg)
  | bicImm (c : Cond) (sb : Bool) (rn rd : Reg) (rot : BitVec 4) (imm8 : BitVec 8)
  | bicShiftImm (c : Cond) (sb : Bool) (rn rd : Reg) (amt : BitVec 5) (sh : ShiftType) (rm : Reg)
  | bicShiftReg (c : Cond) (sb : Bool) (rn rd rs : Reg) (sh : ShiftType) (rm : Reg)
  | mvnImm (c : Cond) (sb : Bool) (rd : Reg) (rot : BitVec 4) (imm8 : BitVec 8)
  | mvnShiftImm (c : Cond) (sb : Bool) (rd : Reg) (amt : BitVec 5) (sh : ShiftType) (rm : Reg)
  | mvnShiftReg (c : Cond) (sb : Bool) (rd rs : Reg) (sh : ShiftType) (rm : Reg)
  | mrs (c : Cond) (spsr : Bool) (rd : Reg)
  | msrReg (c : Cond) (spsr : Bool) (fields : BitVec 4) (rm : Reg)
  | msrImm (c : Cond) (spsr : Bool) (fields rot : BitVec 4) (imm8 : BitVec 8)
  | mul (c : Cond) (sb : Bool) (rd rs rm : Reg)
  | mla (c : Cond) (sb : Bool) (rd rn rs rm : Reg)
  | umull (c : Cond) (sb : Bool) (rdHi rdLo rs rm : Reg)
  | umlal (c : Cond) (sb : Bool) (rdHi rdLo rs rm : Reg)
  | smull (c : Cond) (sb : Bool) (rdHi rdLo rs rm : Reg)
  | smlal (c : Cond) (sb : Bool) (rdHi rdLo rs rm : Reg)
  | swp (c : Cond) (rn rd rm : Reg)
  | swpb (c : Cond) (rn rd rm : Reg)
  | bx (c : Cond) (rn : Reg)
  | ldrhReg (c : Cond) (p u w : Bool) (rn rd rm : Reg)
  | ldrhImm (c : Cond) (p u w : Bool) (rn rd : Reg) (off : BitVec 8)
  | strhReg (c : Cond) (p u w : Bool) (rn rd rm : Reg)
  | strhImm (c : Cond) (p u w : Bool) (rn rd : Reg) (off : BitVec 8)
  | ldrsbReg (c : Cond) (p u w : Bool) (rn rd rm : Reg)
  | ldrsbImm (c : Cond) (p u w : Bool) (rn rd : Reg) (off : BitVec 8)
  | ldrshReg (c : Cond) (p u w : Bool) (rn rd rm : Reg)
  | ldrshImm (c : Cond) (p u w : Bool) (rn rd : Reg) (off : BitVec 8)
  | ldrImm (c : Cond) (p u w : Bool) (rn rd : Reg) (off : BitVec 12)
  | ldrReg (c : Cond) (p u w : Bool) (rn rd : Reg) (amt : BitVec 5) (sh : ShiftType) (rm : Reg)
  | strImm (c : Cond) (p u w : Bool) (rn rd : Reg) (off : BitVec 12)
  | strReg (c : Cond) (p u w : Bool) (rn rd : Reg) (amt : BitVec 5) (sh : ShiftType) (rm : Reg)
  | ldrbImm (c : Cond) (p u w : Bool) (rn rd : Reg) (off : BitVec 12)
  | ldrbReg (c : Cond) (p u w : Bool) (rn rd : Reg) (amt : BitVec 5) (sh : ShiftType) (rm : Reg)
  | strbImm (c : Cond) (p u w : Bool) (rn rd : Reg) (off : BitVec 12)
  | strbReg (c : Cond) (p u w : Bool) (rn rd : Reg) (amt : BitVec 5) (sh : ShiftType) (rm : Reg)
  | ldmia (c : Cond) (sb w : Bool) (rn : Reg) (list : BitVec 16)
  | ldmib (c : Cond) (sb w : Bool) (rn : Reg) (list : BitVec 16)
  | ldmda (c : Cond) (sb w : Bool) (rn : Reg) (list : BitVec 16)
  | ldmdb (c : Cond) (sb w : Bool) (rn : Reg) (list : BitVec 16)
  | stmia (c : Cond) (sb w : Bool) (rn : Reg) (list : BitVec 16)
  | stmib (c : Cond) (sb w : Bool) (rn : Reg) (list : BitVec 16)
  | stmda (c : Cond) (sb w : Bool) (rn : Reg) (list : BitVec 16)
  | stmdb (c : Cond) (sb w : Bool) (rn : Reg) (list : BitVec 16)
  | b (c : Cond) (off : BitVec 24)
  | bl (c : Cond) (off : BitVec 24)
  | ldc (c : Cond) (p u n w : Bool) (rn : Reg) (crd cp : BitVec 4) (off : BitVec 8)
  | stc (c : Cond) (p u n w : Bool) (rn : Reg) (crd cp : BitVec 4) (off : BitVec 8)
  | cdp (c : Cond) (opc crn crd cp : BitVec 4) (info : BitVec 3) (crm : BitVec 4)
  | mrc (c : Cond) (opc : BitVec 3) (crn : BitVec 4) (rd : Reg) (cp : BitVec 4) (info : BitVec 3) (crm : BitVec 4)
  | mcr (c : Cond) (opc : BitVec 3) (crn : BitVec 4) (rd : Reg) (cp : BitVec 4) (info : BitVec 3) (crm : BitVec 4)
  | swi (c : Cond) (comment : BitVec 24)
  | undefined (c : Cond) (hi : BitVec 20) (lo : BitVec 4)
deriving DecidableEq, Repr

/-- The condition under which an instruction executes, bits 31:28 (R70, R74). -/
def Instr.cond (i : Instr) : Cond :=
  match i with
  | .andImm c _ _ _ _ _ => c
  | .andShiftImm c _ _ _ _ _ _ => c
  | .andShiftReg c _ _ _ _ _ _ => c
  | .eorImm c _ _ _ _ _ => c
  | .eorShiftImm c _ _ _ _ _ _ => c
  | .eorShiftReg c _ _ _ _ _ _ => c
  | .subImm c _ _ _ _ _ => c
  | .subShiftImm c _ _ _ _ _ _ => c
  | .subShiftReg c _ _ _ _ _ _ => c
  | .rsbImm c _ _ _ _ _ => c
  | .rsbShiftImm c _ _ _ _ _ _ => c
  | .rsbShiftReg c _ _ _ _ _ _ => c
  | .addImm c _ _ _ _ _ => c
  | .addShiftImm c _ _ _ _ _ _ => c
  | .addShiftReg c _ _ _ _ _ _ => c
  | .adcImm c _ _ _ _ _ => c
  | .adcShiftImm c _ _ _ _ _ _ => c
  | .adcShiftReg c _ _ _ _ _ _ => c
  | .sbcImm c _ _ _ _ _ => c
  | .sbcShiftImm c _ _ _ _ _ _ => c
  | .sbcShiftReg c _ _ _ _ _ _ => c
  | .rscImm c _ _ _ _ _ => c
  | .rscShiftImm c _ _ _ _ _ _ => c
  | .rscShiftReg c _ _ _ _ _ _ => c
  | .tstImm c _ _ _ => c
  | .tstShiftImm c _ _ _ _ => c
  | .tstShiftReg c _ _ _ _ => c
  | .teqImm c _ _ _ => c
  | .teqShiftImm c _ _ _ _ => c
  | .teqShiftReg c _ _ _ _ => c
  | .cmpImm c _ _ _ => c
  | .cmpShiftImm c _ _ _ _ => c
  | .cmpShiftReg c _ _ _ _ => c
  | .cmnImm c _ _ _ => c
  | .cmnShiftImm c _ _ _ _ => c
  | .cmnShiftReg c _ _ _ _ => c
  | .orrImm c _ _ _ _ _ => c
  | .orrShiftImm c _ _ _ _ _ _ => c
  | .orrShiftReg c _ _ _ _ _ _ => c
  | .movImm c _ _ _ _ => c
  | .movShiftImm c _ _ _ _ _ => c
  | .movShiftReg c _ _ _ _ _ => c
  | .bicImm c _ _ _ _ _ => c
  | .bicShiftImm c _ _ _ _ _ _ => c
  | .bicShiftReg c _ _ _ _ _ _ => c
  | .mvnImm c _ _ _ _ => c
  | .mvnShiftImm c _ _ _ _ _ => c
  | .mvnShiftReg c _ _ _ _ _ => c
  | .mrs c _ _ => c
  | .msrReg c _ _ _ => c
  | .msrImm c _ _ _ _ => c
  | .mul c _ _ _ _ => c
  | .mla c _ _ _ _ _ => c
  | .umull c _ _ _ _ _ => c
  | .umlal c _ _ _ _ _ => c
  | .smull c _ _ _ _ _ => c
  | .smlal c _ _ _ _ _ => c
  | .swp c _ _ _ => c
  | .swpb c _ _ _ => c
  | .bx c _ => c
  | .ldrhReg c _ _ _ _ _ _ => c
  | .ldrhImm c _ _ _ _ _ _ => c
  | .strhReg c _ _ _ _ _ _ => c
  | .strhImm c _ _ _ _ _ _ => c
  | .ldrsbReg c _ _ _ _ _ _ => c
  | .ldrsbImm c _ _ _ _ _ _ => c
  | .ldrshReg c _ _ _ _ _ _ => c
  | .ldrshImm c _ _ _ _ _ _ => c
  | .ldrImm c _ _ _ _ _ _ => c
  | .ldrReg c _ _ _ _ _ _ _ _ => c
  | .strImm c _ _ _ _ _ _ => c
  | .strReg c _ _ _ _ _ _ _ _ => c
  | .ldrbImm c _ _ _ _ _ _ => c
  | .ldrbReg c _ _ _ _ _ _ _ _ => c
  | .strbImm c _ _ _ _ _ _ => c
  | .strbReg c _ _ _ _ _ _ _ _ => c
  | .ldmia c _ _ _ _ => c
  | .ldmib c _ _ _ _ => c
  | .ldmda c _ _ _ _ => c
  | .ldmdb c _ _ _ _ => c
  | .stmia c _ _ _ _ => c
  | .stmib c _ _ _ _ => c
  | .stmda c _ _ _ _ => c
  | .stmdb c _ _ _ _ => c
  | .b c _ => c
  | .bl c _ => c
  | .ldc c _ _ _ _ _ _ _ _ => c
  | .stc c _ _ _ _ _ _ _ _ => c
  | .cdp c _ _ _ _ _ _ => c
  | .mrc c _ _ _ _ _ _ => c
  | .mcr c _ _ _ _ _ _ => c
  | .swi c _ => c
  | .undefined c _ _ => c

/-- The tier of a row's rules (00_scope.md R6, R7): true for the rows whose behaviour is tier 2. -/
def Instr.isTier2 (i : Instr) : Bool :=
  match i with
  | .andImm _ _ _ _ _ _ => false
  | .andShiftImm _ _ _ _ _ _ _ => false
  | .andShiftReg _ _ _ _ _ _ _ => false
  | .eorImm _ _ _ _ _ _ => false
  | .eorShiftImm _ _ _ _ _ _ _ => false
  | .eorShiftReg _ _ _ _ _ _ _ => false
  | .subImm _ _ _ _ _ _ => false
  | .subShiftImm _ _ _ _ _ _ _ => false
  | .subShiftReg _ _ _ _ _ _ _ => false
  | .rsbImm _ _ _ _ _ _ => false
  | .rsbShiftImm _ _ _ _ _ _ _ => false
  | .rsbShiftReg _ _ _ _ _ _ _ => false
  | .addImm _ _ _ _ _ _ => false
  | .addShiftImm _ _ _ _ _ _ _ => false
  | .addShiftReg _ _ _ _ _ _ _ => false
  | .adcImm _ _ _ _ _ _ => false
  | .adcShiftImm _ _ _ _ _ _ _ => false
  | .adcShiftReg _ _ _ _ _ _ _ => false
  | .sbcImm _ _ _ _ _ _ => false
  | .sbcShiftImm _ _ _ _ _ _ _ => false
  | .sbcShiftReg _ _ _ _ _ _ _ => false
  | .rscImm _ _ _ _ _ _ => false
  | .rscShiftImm _ _ _ _ _ _ _ => false
  | .rscShiftReg _ _ _ _ _ _ _ => false
  | .tstImm _ _ _ _ => false
  | .tstShiftImm _ _ _ _ _ => false
  | .tstShiftReg _ _ _ _ _ => false
  | .teqImm _ _ _ _ => false
  | .teqShiftImm _ _ _ _ _ => false
  | .teqShiftReg _ _ _ _ _ => false
  | .cmpImm _ _ _ _ => false
  | .cmpShiftImm _ _ _ _ _ => false
  | .cmpShiftReg _ _ _ _ _ => false
  | .cmnImm _ _ _ _ => false
  | .cmnShiftImm _ _ _ _ _ => false
  | .cmnShiftReg _ _ _ _ _ => false
  | .orrImm _ _ _ _ _ _ => false
  | .orrShiftImm _ _ _ _ _ _ _ => false
  | .orrShiftReg _ _ _ _ _ _ _ => false
  | .movImm _ _ _ _ _ => false
  | .movShiftImm _ _ _ _ _ _ => false
  | .movShiftReg _ _ _ _ _ _ => false
  | .bicImm _ _ _ _ _ _ => false
  | .bicShiftImm _ _ _ _ _ _ _ => false
  | .bicShiftReg _ _ _ _ _ _ _ => false
  | .mvnImm _ _ _ _ _ => false
  | .mvnShiftImm _ _ _ _ _ _ => false
  | .mvnShiftReg _ _ _ _ _ _ => false
  | .mrs _ _ _ => true
  | .msrReg _ _ _ _ => true
  | .msrImm _ _ _ _ _ => true
  | .mul _ _ _ _ _ => true
  | .mla _ _ _ _ _ _ => true
  | .umull _ _ _ _ _ _ => true
  | .umlal _ _ _ _ _ _ => true
  | .smull _ _ _ _ _ _ => true
  | .smlal _ _ _ _ _ _ => true
  | .swp _ _ _ _ => true
  | .swpb _ _ _ _ => true
  | .bx _ _ => true
  | .ldrhReg _ _ _ _ _ _ _ => true
  | .ldrhImm _ _ _ _ _ _ _ => true
  | .strhReg _ _ _ _ _ _ _ => true
  | .strhImm _ _ _ _ _ _ _ => true
  | .ldrsbReg _ _ _ _ _ _ _ => true
  | .ldrsbImm _ _ _ _ _ _ _ => true
  | .ldrshReg _ _ _ _ _ _ _ => true
  | .ldrshImm _ _ _ _ _ _ _ => true
  | .ldrImm _ _ _ _ _ _ _ => false
  | .ldrReg _ _ _ _ _ _ _ _ _ => false
  | .strImm _ _ _ _ _ _ _ => false
  | .strReg _ _ _ _ _ _ _ _ _ => false
  | .ldrbImm _ _ _ _ _ _ _ => false
  | .ldrbReg _ _ _ _ _ _ _ _ _ => false
  | .strbImm _ _ _ _ _ _ _ => false
  | .strbReg _ _ _ _ _ _ _ _ _ => false
  | .ldmia _ _ _ _ _ => false
  | .ldmib _ _ _ _ _ => false
  | .ldmda _ _ _ _ _ => false
  | .ldmdb _ _ _ _ _ => false
  | .stmia _ _ _ _ _ => false
  | .stmib _ _ _ _ _ => false
  | .stmda _ _ _ _ _ => false
  | .stmdb _ _ _ _ _ => false
  | .b _ _ => false
  | .bl _ _ => false
  | .ldc _ _ _ _ _ _ _ _ _ => true
  | .stc _ _ _ _ _ _ _ _ _ => true
  | .cdp _ _ _ _ _ _ _ => true
  | .mrc _ _ _ _ _ _ _ => true
  | .mcr _ _ _ _ _ _ _ => true
  | .swi _ _ => true
  | .undefined _ _ _ => true

end Sys2Proof
end

