-- ==== Sys2Proof/Machine/Restrictions.lean ====
section
/-! DEFINITION. The operand combinations the spec refuses (92_eei_decisions.md D16, D23, D24), as checks on the fields of
an instruction alone. WellFormed.lean collects them per instruction; each meaning applies its own after the condition
test (30_encoding.md R75, assumption log 17). -/

namespace Sys2Proof.Machine

/-- The register is R15. -/
def isPc (r : Reg) : Bool := r == 15#4

/-- R81: Rs of a shift by register is not R15. -/
def shiftRegOk (rs : Reg) : Bool := !isPc rs

/-- R141: MRS does not write R15. -/
def mrsOk (rd : Reg) : Bool := !isPc rd

/-- R142: MSR does not read R15. -/
def msrOk (rm : Reg) : Bool := !isPc rm

/-- R103: BX does not branch through R15. -/
def bxOk (rn : Reg) : Bool := !isPc rn

/-- R160, R217: P = 0 with W = 1 (the T variants, D23). -/
def userTransfer (p w : Bool) : Bool := !p && w

/-- R158: with write-back (P = 0 or W = 1) the base is neither R15 nor Rd. -/
def writeBackOk (p w : Bool) (rn rd : Reg) : Bool :=
  if !p || w then !isPc rn && rn != rd else true

/-- R158 for an immediate offset: `byte` refuses Rd = R15. -/
def singleImmOk (byte p w : Bool) (rn rd : Reg) : Bool :=
  writeBackOk p w rn rd && !(byte && isPc rd)

/-- R158 for a register offset: also Rm is not R15, and not Rn in a post-indexed form. -/
def singleRegOk (byte p w : Bool) (rn rd rm : Reg) : Bool :=
  singleImmOk byte p w rn rd && !isPc rm && (p || rm != rn)

/-- R217 for an immediate offset. -/
def halfImmOk (p w : Bool) (rn rd : Reg) : Bool :=
  writeBackOk p w rn rd && !isPc rd

/-- R217 for a register offset: also Rm is not R15 (R211). -/
def halfRegOk (p w : Bool) (rn rd rm : Reg) : Bool :=
  halfImmOk p w rn rd && !isPc rm

/-- R15 is in the register list. -/
def listHasPc (list : BitVec 16) : Bool := list.getLsbD 15

/-- R178: the list is not empty, the base is not R15, and the base is not in the list when it is written back
(R174). -/
def blockOk (w : Bool) (rn : Reg) (list : BitVec 16) : Bool :=
  list != 0#16 && !isPc rn && !(w && list.getLsbD rn.toNat)

/-- R173: the S bit selects the User bank unless the instruction is a load of R15. -/
def usesUserBank (load sb : Bool) (list : BitVec 16) : Bool :=
  sb && !(load && listHasPc list)

/-- R177: the User-bank form has no write-back (D24). -/
def userBankOk (load sb w : Bool) (list : BitVec 16) : Bool :=
  !(usesUserBank load sb list && w)

/-- R199 for MUL. -/
def mulOk (rd rs rm : Reg) : Bool :=
  !isPc rd && !isPc rs && !isPc rm && rd != rm

/-- R199 for MLA. -/
def mlaOk (rd rn rs rm : Reg) : Bool :=
  mulOk rd rs rm && !isPc rn

/-- R199 for the long multiplies. -/
def longOk (rdHi rdLo rs rm : Reg) : Bool :=
  !isPc rdHi && !isPc rdLo && !isPc rs && !isPc rm && rdHi != rdLo && rdHi != rm && rdLo != rm

/-- R201: no R15, and the address register is neither Rd nor Rm. -/
def swapOk (rn rd rm : Reg) : Bool :=
  !isPc rn && !isPc rd && !isPc rm && rn != rd && rn != rm

end Sys2Proof.Machine
end

