-- ==== Sys2Proof/WellFormed.lean ====
section
/-! DEFINITION. Well-formed instructions: those none of whose operand combinations the spec refuses
(93_implementation_defined.md U20, U23 to U27, U29 to U32; 92_eei_decisions.md D16, D23, D24). Every field is of the
width its encoding has, so every term of `Instr` can be encoded; what is checked here is what the spec refuses whatever
the state. -/

namespace Sys2Proof

open Machine in
/-- The static operand restrictions of R81, R103, R141, R142, R158, R160, R177, R178, R199, R201, R217. -/
def Instr.wellFormed (i : Instr) : Bool :=
  match i with
  | .andImm _ _ _ _ _ _ => true
  | .andShiftImm _ _ _ _ _ _ _ => true
  | .andShiftReg _ _ _ _ rs _ _ => shiftRegOk rs
  | .eorImm _ _ _ _ _ _ => true
  | .eorShiftImm _ _ _ _ _ _ _ => true
  | .eorShiftReg _ _ _ _ rs _ _ => shiftRegOk rs
  | .subImm _ _ _ _ _ _ => true
  | .subShiftImm _ _ _ _ _ _ _ => true
  | .subShiftReg _ _ _ _ rs _ _ => shiftRegOk rs
  | .rsbImm _ _ _ _ _ _ => true
  | .rsbShiftImm _ _ _ _ _ _ _ => true
  | .rsbShiftReg _ _ _ _ rs _ _ => shiftRegOk rs
  | .addImm _ _ _ _ _ _ => true
  | .addShiftImm _ _ _ _ _ _ _ => true
  | .addShiftReg _ _ _ _ rs _ _ => shiftRegOk rs
  | .adcImm _ _ _ _ _ _ => true
  | .adcShiftImm _ _ _ _ _ _ _ => true
  | .adcShiftReg _ _ _ _ rs _ _ => shiftRegOk rs
  | .sbcImm _ _ _ _ _ _ => true
  | .sbcShiftImm _ _ _ _ _ _ _ => true
  | .sbcShiftReg _ _ _ _ rs _ _ => shiftRegOk rs
  | .rscImm _ _ _ _ _ _ => true
  | .rscShiftImm _ _ _ _ _ _ _ => true
  | .rscShiftReg _ _ _ _ rs _ _ => shiftRegOk rs
  | .tstImm _ _ _ _ => true
  | .tstShiftImm _ _ _ _ _ => true
  | .tstShiftReg _ _ rs _ _ => shiftRegOk rs
  | .teqImm _ _ _ _ => true
  | .teqShiftImm _ _ _ _ _ => true
  | .teqShiftReg _ _ rs _ _ => shiftRegOk rs
  | .cmpImm _ _ _ _ => true
  | .cmpShiftImm _ _ _ _ _ => true
  | .cmpShiftReg _ _ rs _ _ => shiftRegOk rs
  | .cmnImm _ _ _ _ => true
  | .cmnShiftImm _ _ _ _ _ => true
  | .cmnShiftReg _ _ rs _ _ => shiftRegOk rs
  | .orrImm _ _ _ _ _ _ => true
  | .orrShiftImm _ _ _ _ _ _ _ => true
  | .orrShiftReg _ _ _ _ rs _ _ => shiftRegOk rs
  | .movImm _ _ _ _ _ => true
  | .movShiftImm _ _ _ _ _ _ => true
  | .movShiftReg _ _ _ rs _ _ => shiftRegOk rs
  | .bicImm _ _ _ _ _ _ => true
  | .bicShiftImm _ _ _ _ _ _ _ => true
  | .bicShiftReg _ _ _ _ rs _ _ => shiftRegOk rs
  | .mvnImm _ _ _ _ _ => true
  | .mvnShiftImm _ _ _ _ _ _ => true
  | .mvnShiftReg _ _ _ rs _ _ => shiftRegOk rs
  | .mrs _ _ rd => mrsOk rd
  | .msrReg _ _ _ rm => msrOk rm
  | .msrImm _ _ _ _ _ => true
  | .mul _ _ rd rs rm => mulOk rd rs rm
  | .mla _ _ rd rn rs rm => mlaOk rd rn rs rm
  | .umull _ _ rdHi rdLo rs rm => longOk rdHi rdLo rs rm
  | .umlal _ _ rdHi rdLo rs rm => longOk rdHi rdLo rs rm
  | .smull _ _ rdHi rdLo rs rm => longOk rdHi rdLo rs rm
  | .smlal _ _ rdHi rdLo rs rm => longOk rdHi rdLo rs rm
  | .swp _ rn rd rm => swapOk rn rd rm
  | .swpb _ rn rd rm => swapOk rn rd rm
  | .bx _ rn => bxOk rn
  | .ldrhReg _ p _ w rn rd rm => !userTransfer p w && halfRegOk p w rn rd rm
  | .ldrhImm _ p _ w rn rd _ => !userTransfer p w && halfImmOk p w rn rd
  | .strhReg _ p _ w rn rd rm => !userTransfer p w && halfRegOk p w rn rd rm
  | .strhImm _ p _ w rn rd _ => !userTransfer p w && halfImmOk p w rn rd
  | .ldrsbReg _ p _ w rn rd rm => !userTransfer p w && halfRegOk p w rn rd rm
  | .ldrsbImm _ p _ w rn rd _ => !userTransfer p w && halfImmOk p w rn rd
  | .ldrshReg _ p _ w rn rd rm => !userTransfer p w && halfRegOk p w rn rd rm
  | .ldrshImm _ p _ w rn rd _ => !userTransfer p w && halfImmOk p w rn rd
  | .ldrImm _ p _ w rn rd _ => !userTransfer p w && singleImmOk false p w rn rd
  | .ldrReg _ p _ w rn rd _ _ rm => !userTransfer p w && singleRegOk false p w rn rd rm
  | .strImm _ p _ w rn rd _ => !userTransfer p w && singleImmOk false p w rn rd
  | .strReg _ p _ w rn rd _ _ rm => !userTransfer p w && singleRegOk false p w rn rd rm
  | .ldrbImm _ p _ w rn rd _ => !userTransfer p w && singleImmOk true p w rn rd
  | .ldrbReg _ p _ w rn rd _ _ rm => !userTransfer p w && singleRegOk true p w rn rd rm
  | .strbImm _ p _ w rn rd _ => !userTransfer p w && singleImmOk true p w rn rd
  | .strbReg _ p _ w rn rd _ _ rm => !userTransfer p w && singleRegOk true p w rn rd rm
  | .ldmia _ sb w rn list => blockOk w rn list && userBankOk true sb w list
  | .ldmib _ sb w rn list => blockOk w rn list && userBankOk true sb w list
  | .ldmda _ sb w rn list => blockOk w rn list && userBankOk true sb w list
  | .ldmdb _ sb w rn list => blockOk w rn list && userBankOk true sb w list
  | .stmia _ sb w rn list => blockOk w rn list && userBankOk false sb w list
  | .stmib _ sb w rn list => blockOk w rn list && userBankOk false sb w list
  | .stmda _ sb w rn list => blockOk w rn list && userBankOk false sb w list
  | .stmdb _ sb w rn list => blockOk w rn list && userBankOk false sb w list
  | .b _ _ => true
  | .bl _ _ => true
  | .ldc _ _ _ _ _ _ _ _ _ => true
  | .stc _ _ _ _ _ _ _ _ _ => true
  | .cdp _ _ _ _ _ _ _ => true
  | .mrc _ _ _ _ _ _ _ => true
  | .mcr _ _ _ _ _ _ _ => true
  | .swi _ _ => true
  | .undefined _ _ _ => true

end Sys2Proof
end

