-- ==== Sys2Proof/Decode.lean ====
section
/-! DEFINITION. The decoder, total on any word and any list of bytes, in the order of 30_encoding.md R89 over the formats
of R72 and the opcode map R117, and after it the encoder, written from the same formats. A word that matches no row of
spec/opcode_table.json is rejected by name (R90); the condition 0b1111 is rejected by name (R76). -/

namespace Sys2Proof

/-! ## Bit fields and byte order -/

/-- Bits `lo + n - 1` down to `lo` of a word (R11). -/
def field (w : Word) (lo n : Nat) : BitVec n := w.extractLsb' lo n

/-- A field whose lowest bit stands at bit `lo`, every other bit 0; fields so placed are joined by `|||`. -/
def place {n k : Nat} (lo : Nat) (x : BitVec n) : BitVec k := x.setWidth k <<< lo

/-- The four bytes of a word in the order they stand in memory, lowest address first (20_memory.md R50). -/
def bytesOfWord (big : Bool) (w : Word) : List Byte :=
  let l : List Byte := [field w 0 8, field w 8 8, field w 16 8, field w 24 8]
  if big then l.reverse else l

/-- The word four bytes make, `b0` at the lowest address (R50). -/
def wordOfBytes (big : Bool) (b0 b1 b2 b3 : Byte) : Word :=
  if big then place 24 b0 ||| place 16 b1 ||| place 8 b2 ||| place 0 b3
  else place 24 b3 ||| place 16 b2 ||| place 8 b1 ||| place 0 b0

/-- The two bytes of a halfword, lowest address first (R50). -/
def bytesOfHalf (big : Bool) (h : Half) : List Byte :=
  let l : List Byte := [h.extractLsb' 0 8, h.extractLsb' 8 8]
  if big then l.reverse else l

/-- The halfword two bytes make, `b0` at the lowest address (R50). -/
def halfOfBytes (big : Bool) (b0 b1 : Byte) : Half :=
  if big then place 8 b0 ||| place 0 b1 else place 8 b1 ||| place 0 b0

/-! ## The small fields -/

/-- Bits 31:28 of a condition (R74). -/
def Cond.bits (c : Cond) : BitVec 4 :=
  match c with
  | .eq => 0b0000 | .ne => 0b0001 | .cs => 0b0010 | .cc => 0b0011
  | .mi => 0b0100 | .pl => 0b0101 | .vs => 0b0110 | .vc => 0b0111
  | .hi => 0b1000 | .ls => 0b1001 | .ge => 0b1010 | .lt => 0b1011
  | .gt => 0b1100 | .le => 0b1101 | .al => 0b1110

/-- Table 2-2 (R74); 0b1111 is in no row (R76). -/
def Cond.ofBits (b : BitVec 4) : Option Cond :=
  match b.toNat with
  | 0 => some .eq | 1 => some .ne | 2 => some .cs | 3 => some .cc
  | 4 => some .mi | 5 => some .pl | 6 => some .vs | 7 => some .vc
  | 8 => some .hi | 9 => some .ls | 10 => some .ge | 11 => some .lt
  | 12 => some .gt | 13 => some .le | 14 => some .al | _ => none

/-- Bits 6:5 of a shift type (R82). -/
def ShiftType.bits (t : ShiftType) : BitVec 2 :=
  match t with
  | .lsl => 0b00 | .lsr => 0b01 | .asr => 0b10 | .ror => 0b11

/-- Table "2-6 Operand 2 Type" (R82). -/
def ShiftType.ofBits (b : BitVec 2) : ShiftType :=
  match b.toNat with
  | 0 => .lsl | 1 => .lsr | 2 => .asr | _ => .ror

/-! ## The decoder -/

/-- What a word decodes to. -/
inductive DecodeResult where
  /-- An instruction of the table. -/
  | ok (i : Instr)
  /-- The condition field is 0b1111, which is no condition (R76). -/
  | neverCondition
  /-- The word matches no row of the table; its condition is `c` (R90 (c)). -/
  | reserved (c : Cond)
  /-- Not four bytes: every instruction is one word (R70). -/
  | notOneWord
deriving DecidableEq, Repr

/-- Data processing, immediate operand 2 (R117); TST, TEQ, CMP and CMN need S = 1 and Rd = 0000, MOV and MVN Rn = 0000
(R90 (b)). -/
def decodeDpImm (c : Cond) (w : Word) : Option Instr :=
  let sb := w.getLsbD 20
  let rn := field w 16 4
  let rd := field w 12 4
  let rot := field w 8 4
  let imm8 := field w 0 8
  match (field w 21 4).toNat with
  | 0 => some (.andImm c sb rn rd rot imm8)
  | 1 => some (.eorImm c sb rn rd rot imm8)
  | 2 => some (.subImm c sb rn rd rot imm8)
  | 3 => some (.rsbImm c sb rn rd rot imm8)
  | 4 => some (.addImm c sb rn rd rot imm8)
  | 5 => some (.adcImm c sb rn rd rot imm8)
  | 6 => some (.sbcImm c sb rn rd rot imm8)
  | 7 => some (.rscImm c sb rn rd rot imm8)
  | 8 => if sb && rd == 0#4 then some (.tstImm c rn rot imm8) else none
  | 9 => if sb && rd == 0#4 then some (.teqImm c rn rot imm8) else none
  | 10 => if sb && rd == 0#4 then some (.cmpImm c rn rot imm8) else none
  | 11 => if sb && rd == 0#4 then some (.cmnImm c rn rot imm8) else none
  | 12 => some (.orrImm c sb rn rd rot imm8)
  | 13 => if rn == 0#4 then some (.movImm c sb rd rot imm8) else none
  | 14 => some (.bicImm c sb rn rd rot imm8)
  | _ => if rn == 0#4 then some (.mvnImm c sb rd rot imm8) else none

/-- Data processing, register shifted by an immediate (R117). -/
def decodeDpShiftImm (c : Cond) (w : Word) : Option Instr :=
  let sb := w.getLsbD 20
  let rn := field w 16 4
  let rd := field w 12 4
  let amt := field w 7 5
  let sh := ShiftType.ofBits (field w 5 2)
  let rm := field w 0 4
  match (field w 21 4).toNat with
  | 0 => some (.andShiftImm c sb rn rd amt sh rm)
  | 1 => some (.eorShiftImm c sb rn rd amt sh rm)
  | 2 => some (.subShiftImm c sb rn rd amt sh rm)
  | 3 => some (.rsbShiftImm c sb rn rd amt sh rm)
  | 4 => some (.addShiftImm c sb rn rd amt sh rm)
  | 5 => some (.adcShiftImm c sb rn rd amt sh rm)
  | 6 => some (.sbcShiftImm c sb rn rd amt sh rm)
  | 7 => some (.rscShiftImm c sb rn rd amt sh rm)
  | 8 => if sb && rd == 0#4 then some (.tstShiftImm c rn amt sh rm) else none
  | 9 => if sb && rd == 0#4 then some (.teqShiftImm c rn amt sh rm) else none
  | 10 => if sb && rd == 0#4 then some (.cmpShiftImm c rn amt sh rm) else none
  | 11 => if sb && rd == 0#4 then some (.cmnShiftImm c rn amt sh rm) else none
  | 12 => some (.orrShiftImm c sb rn rd amt sh rm)
  | 13 => if rn == 0#4 then some (.movShiftImm c sb rd amt sh rm) else none
  | 14 => some (.bicShiftImm c sb rn rd amt sh rm)
  | _ => if rn == 0#4 then some (.mvnShiftImm c sb rd amt sh rm) else none

/-- Data processing, register shifted by a register (R117). -/
def decodeDpShiftReg (c : Cond) (w : Word) : Option Instr :=
  let sb := w.getLsbD 20
  let rn := field w 16 4
  let rd := field w 12 4
  let rs := field w 8 4
  let sh := ShiftType.ofBits (field w 5 2)
  let rm := field w 0 4
  match (field w 21 4).toNat with
  | 0 => some (.andShiftReg c sb rn rd rs sh rm)
  | 1 => some (.eorShiftReg c sb rn rd rs sh rm)
  | 2 => some (.subShiftReg c sb rn rd rs sh rm)
  | 3 => some (.rsbShiftReg c sb rn rd rs sh rm)
  | 4 => some (.addShiftReg c sb rn rd rs sh rm)
  | 5 => some (.adcShiftReg c sb rn rd rs sh rm)
  | 6 => some (.sbcShiftReg c sb rn rd rs sh rm)
  | 7 => some (.rscShiftReg c sb rn rd rs sh rm)
  | 8 => if sb && rd == 0#4 then some (.tstShiftReg c rn rs sh rm) else none
  | 9 => if sb && rd == 0#4 then some (.teqShiftReg c rn rs sh rm) else none
  | 10 => if sb && rd == 0#4 then some (.cmpShiftReg c rn rs sh rm) else none
  | 11 => if sb && rd == 0#4 then some (.cmnShiftReg c rn rs sh rm) else none
  | 12 => some (.orrShiftReg c sb rn rd rs sh rm)
  | 13 => if rn == 0#4 then some (.movShiftReg c sb rd rs sh rm) else none
  | 14 => some (.bicShiftReg c sb rn rd rs sh rm)
  | _ => if rn == 0#4 then some (.mvnShiftReg c sb rd rs sh rm) else none

/-- Bits 27:23 = 00010 and bit 20 = 0: BX, MRS and MSR register (R89, R103, R141, R142). -/
def decodeMisc (c : Cond) (w : Word) : Option Instr :=
  if field w 4 24 == 0x12FFF1#24 then some (.bx c (field w 0 4))
  else if field w 16 6 == 0b001111#6 && field w 0 12 == 0#12 then
    some (.mrs c (w.getLsbD 22) (field w 12 4))
  else if field w 20 2 == 0b10#2 && field w 4 12 == 0xF00#12 then
    some (.msrReg c (w.getLsbD 22) (field w 16 4) (field w 0 4))
  else none

/-- Bits 27:23 = 00110 and bit 20 = 0: MSR immediate (R89, R142). -/
def decodeMsrImm (c : Cond) (w : Word) : Option Instr :=
  if w.getLsbD 21 && field w 12 4 == 0b1111#4 then
    some (.msrImm c (w.getLsbD 22) (field w 16 4) (field w 8 4) (field w 0 8))
  else none

/-- Bits 27:25 = 000 and bits 7:4 = 1001: the multiplies and swaps (R89, R190, R200). -/
def decodeMultiplySwap (c : Cond) (w : Word) : Option Instr :=
  let sb := w.getLsbD 20
  let hi := field w 16 4
  let lo := field w 12 4
  let rs := field w 8 4
  let rm := field w 0 4
  match (field w 23 2).toNat with
  | 0 =>
    if w.getLsbD 22 then none
    else if w.getLsbD 21 then some (.mla c sb hi lo rs rm)
    else if lo == 0#4 then some (.mul c sb hi rs rm) else none
  | 1 =>
    match w.getLsbD 22, w.getLsbD 21 with
    | false, false => some (.umull c sb hi lo rs rm)
    | false, true => some (.umlal c sb hi lo rs rm)
    | true, false => some (.smull c sb hi lo rs rm)
    | true, true => some (.smlal c sb hi lo rs rm)
  | 2 =>
    if field w 20 2 == 0b00#2 && rs == 0#4 then
      if w.getLsbD 22 then some (.swpb c hi lo rm) else some (.swp c hi lo rm)
    else none
  | _ => none

/-- Bits 27:25 = 000, bits 7 and 4 = 1, SH not 00: halfword and signed transfers (R210). -/
def decodeHalf (c : Cond) (w : Word) : Option Instr :=
  let p := w.getLsbD 24
  let u := w.getLsbD 23
  let wb := w.getLsbD 21
  let rn := field w 16 4
  let rd := field w 12 4
  let rm := field w 0 4
  let off : BitVec 8 := place 4 (field w 8 4) ||| place 0 (field w 0 4)
  if w.getLsbD 22 then
    match w.getLsbD 20, (field w 5 2).toNat with
    | true, 1 => some (.ldrhImm c p u wb rn rd off)
    | true, 2 => some (.ldrsbImm c p u wb rn rd off)
    | true, 3 => some (.ldrshImm c p u wb rn rd off)
    | false, 1 => some (.strhImm c p u wb rn rd off)
    | _, _ => none
  else if field w 8 4 == 0#4 then
    match w.getLsbD 20, (field w 5 2).toNat with
    | true, 1 => some (.ldrhReg c p u wb rn rd rm)
    | true, 2 => some (.ldrsbReg c p u wb rn rd rm)
    | true, 3 => some (.ldrshReg c p u wb rn rd rm)
    | false, 1 => some (.strhReg c p u wb rn rd rm)
    | _, _ => none
  else none

/-- Bits 27:25 = 000 (R89). -/
def decode000 (c : Cond) (w : Word) : Option Instr :=
  if w.getLsbD 7 && w.getLsbD 4 then
    if field w 5 2 == 0b00#2 then decodeMultiplySwap c w else decodeHalf c w
  else if field w 23 2 == 0b10#2 && !w.getLsbD 20 then decodeMisc c w
  else if w.getLsbD 4 then decodeDpShiftReg c w
  else decodeDpShiftImm c w

/-- Bits 27:25 = 001 (R89). -/
def decode001 (c : Cond) (w : Word) : Option Instr :=
  if field w 23 2 == 0b10#2 && !w.getLsbD 20 then decodeMsrImm c w else decodeDpImm c w

/-- Bits 27:25 = 010: single data transfer, immediate offset (R150). -/
def decode010 (c : Cond) (w : Word) : Option Instr :=
  let p := w.getLsbD 24
  let u := w.getLsbD 23
  let wb := w.getLsbD 21
  let rn := field w 16 4
  let rd := field w 12 4
  let off := field w 0 12
  match w.getLsbD 20, w.getLsbD 22 with
  | true, false => some (.ldrImm c p u wb rn rd off)
  | false, false => some (.strImm c p u wb rn rd off)
  | true, true => some (.ldrbImm c p u wb rn rd off)
  | false, true => some (.strbImm c p u wb rn rd off)

/-- Bits 27:25 = 011: single data transfer, register offset, or with bit 4 = 1 the undefined instruction (R150, R227). -/
def decode011 (c : Cond) (w : Word) : Option Instr :=
  let p := w.getLsbD 24
  let u := w.getLsbD 23
  let wb := w.getLsbD 21
  let rn := field w 16 4
  let rd := field w 12 4
  let amt := field w 7 5
  let sh := ShiftType.ofBits (field w 5 2)
  let rm := field w 0 4
  if w.getLsbD 4 then some (.undefined c (field w 5 20) (field w 0 4))
  else
    match w.getLsbD 20, w.getLsbD 22 with
    | true, false => some (.ldrReg c p u wb rn rd amt sh rm)
    | false, false => some (.strReg c p u wb rn rd amt sh rm)
    | true, true => some (.ldrbReg c p u wb rn rd amt sh rm)
    | false, true => some (.strbReg c p u wb rn rd amt sh rm)

/-- Bits 27:25 = 100: block data transfer, L, P and U by Table 2-7 (R171). -/
def decode100 (c : Cond) (w : Word) : Option Instr :=
  let sb := w.getLsbD 22
  let wb := w.getLsbD 21
  let rn := field w 16 4
  let list := field w 0 16
  match w.getLsbD 20, w.getLsbD 24, w.getLsbD 23 with
  | true, false, true => some (.ldmia c sb wb rn list)
  | true, true, true => some (.ldmib c sb wb rn list)
  | true, false, false => some (.ldmda c sb wb rn list)
  | true, true, false => some (.ldmdb c sb wb rn list)
  | false, false, true => some (.stmia c sb wb rn list)
  | false, true, true => some (.stmib c sb wb rn list)
  | false, false, false => some (.stmda c sb wb rn list)
  | false, true, false => some (.stmdb c sb wb rn list)

/-- Bits 27:25 = 101: branch (R101, R102). -/
def decode101 (c : Cond) (w : Word) : Option Instr :=
  if w.getLsbD 24 then some (.bl c (field w 0 24)) else some (.b c (field w 0 24))

/-- Bits 27:25 = 110: coprocessor data transfer (R220, R222, R223). -/
def decode110 (c : Cond) (w : Word) : Option Instr :=
  let p := w.getLsbD 24
  let u := w.getLsbD 23
  let n := w.getLsbD 22
  let wb := w.getLsbD 21
  let rn := field w 16 4
  let crd := field w 12 4
  let cp := field w 8 4
  let off := field w 0 8
  if w.getLsbD 20 then some (.ldc c p u n wb rn crd cp off) else some (.stc c p u n wb rn crd cp off)

/-- Bits 27:25 = 111: software interrupt, coprocessor data operation and register transfer (R220, R225). -/
def decode111 (c : Cond) (w : Word) : Option Instr :=
  let crn := field w 16 4
  let crd := field w 12 4
  let cp := field w 8 4
  let info := field w 5 3
  let crm := field w 0 4
  if w.getLsbD 24 then some (.swi c (field w 0 24))
  else if w.getLsbD 4 then
    if w.getLsbD 20 then some (.mrc c (field w 21 3) crn crd cp info crm)
    else some (.mcr c (field w 21 3) crn crd cp info crm)
  else some (.cdp c (field w 20 4) crn crd cp info crm)

/-- The case on bits 27:25 (R89). -/
def decodeBody (c : Cond) (w : Word) : Option Instr :=
  match (field w 25 3).toNat with
  | 0 => decode000 c w
  | 1 => decode001 c w
  | 2 => decode010 c w
  | 3 => decode011 c w
  | 4 => decode100 c w
  | 5 => decode101 c w
  | 6 => decode110 c w
  | _ => decode111 c w

/-- The instruction a word is (R70, R76, R89, R90). -/
def decode (w : Word) : DecodeResult :=
  match Cond.ofBits (field w 28 4) with
  | none => .neverCondition
  | some c =>
    match decodeBody c w with
    | some i => .ok i
    | none => .reserved c

/-- The instruction four bytes are, lowest address first, in a byte order (R51). -/
def decodeBytes (big : Bool) (bs : List Byte) : DecodeResult :=
  match bs with
  | [b0, b1, b2, b3] => decode (wordOfBytes big b0 b1 b2 b3)
  | _ => .notOneWord

/-- The instruction the decoder reads from the `nbits` bits `w`, laid out in memory little-endian. -/
def decodeTableWord (nbits w : Nat) : Option Instr :=
  match decodeBytes false (bytesOfWord false (BitVec.ofNat 32 (w % 2 ^ nbits))) with
  | .ok i => some i
  | _ => none

/-! ## The encoder -/

/-- One bit. -/
def bit (b : Bool) : BitVec 1 := BitVec.ofBool b

/-- Data processing, immediate operand 2 (R72, R117). -/
def encDpImm (c : Cond) (op : BitVec 4) (sb : Bool) (rn rd : Reg) (rot : BitVec 4) (imm8 : BitVec 8) : Word :=
  place 28 c.bits ||| place 25 0b001#3 ||| place 21 op ||| place 20 (bit sb) ||| place 16 rn ||| place 12 rd |||
    place 8 rot ||| place 0 imm8

/-- Data processing, register shifted by an immediate (R79, R117). -/
def encDpShiftImm (c : Cond) (op : BitVec 4) (sb : Bool) (rn rd : Reg) (amt : BitVec 5) (sh : ShiftType) (rm : Reg) :
    Word :=
  place 28 c.bits ||| place 21 op ||| place 20 (bit sb) ||| place 16 rn ||| place 12 rd ||| place 7 amt |||
    place 5 sh.bits ||| place 0 rm

/-- Data processing, register shifted by a register (R79, R117). -/
def encDpShiftReg (c : Cond) (op : BitVec 4) (sb : Bool) (rn rd rs : Reg) (sh : ShiftType) (rm : Reg) : Word :=
  place 28 c.bits ||| place 21 op ||| place 20 (bit sb) ||| place 16 rn ||| place 12 rd ||| place 8 rs |||
    place 5 sh.bits ||| place 4 1#1 ||| place 0 rm

/-- Multiply: `hi` stands in bits 19:16 and `lo` in bits 15:12 (R190). -/
def encMultiply (c : Cond) (op : BitVec 7) (sb : Bool) (hi lo rs rm : Reg) : Word :=
  place 28 c.bits ||| place 21 op ||| place 20 (bit sb) ||| place 16 hi ||| place 12 lo ||| place 8 rs |||
    place 4 0b1001#4 ||| place 0 rm

/-- Single data swap (R200). -/
def encSwap (c : Cond) (byte : Bool) (rn rd rm : Reg) : Word :=
  place 28 c.bits ||| place 23 0b00010#5 ||| place 22 (bit byte) ||| place 16 rn ||| place 12 rd |||
    place 4 0b00001001#8 ||| place 0 rm

/-- Halfword transfer, register offset; `sh` is the S H pair (R210). -/
def encHalfReg (c : Cond) (p u w l : Bool) (rn rd : Reg) (sh : BitVec 2) (rm : Reg) : Word :=
  place 28 c.bits ||| place 24 (bit p) ||| place 23 (bit u) ||| place 21 (bit w) ||| place 20 (bit l) |||
    place 16 rn ||| place 12 rd ||| place 7 0b00001#5 ||| place 5 sh ||| place 4 1#1 ||| place 0 rm

/-- Halfword transfer, immediate offset, its high nibble in bits 11:8 (R210, R211). -/
def encHalfImm (c : Cond) (p u w l : Bool) (rn rd : Reg) (sh : BitVec 2) (off : BitVec 8) : Word :=
  place 28 c.bits ||| place 24 (bit p) ||| place 23 (bit u) ||| place 22 1#1 ||| place 21 (bit w) |||
    place 20 (bit l) ||| place 16 rn ||| place 12 rd ||| place 8 (off.extractLsb' 4 4) ||| place 7 1#1 |||
    place 5 sh ||| place 4 1#1 ||| place 0 (off.extractLsb' 0 4)

/-- Single data transfer, immediate offset (R150). -/
def encSingleImm (c : Cond) (p u b w l : Bool) (rn rd : Reg) (off : BitVec 12) : Word :=
  place 28 c.bits ||| place 25 0b010#3 ||| place 24 (bit p) ||| place 23 (bit u) ||| place 22 (bit b) |||
    place 21 (bit w) ||| place 20 (bit l) ||| place 16 rn ||| place 12 rd ||| place 0 off

/-- Single data transfer, register offset (R150, R151). -/
def encSingleReg (c : Cond) (p u b w l : Bool) (rn rd : Reg) (amt : BitVec 5) (sh : ShiftType) (rm : Reg) : Word :=
  place 28 c.bits ||| place 25 0b011#3 ||| place 24 (bit p) ||| place 23 (bit u) ||| place 22 (bit b) |||
    place 21 (bit w) ||| place 20 (bit l) ||| place 16 rn ||| place 12 rd ||| place 7 amt ||| place 5 sh.bits |||
    place 0 rm

/-- Block data transfer (R170). -/
def encBlock (c : Cond) (p u sb w l : Bool) (rn : Reg) (list : BitVec 16) : Word :=
  place 28 c.bits ||| place 25 0b100#3 ||| place 24 (bit p) ||| place 23 (bit u) ||| place 22 (bit sb) |||
    place 21 (bit w) ||| place 20 (bit l) ||| place 16 rn ||| place 0 list

/-- Coprocessor data transfer (R220). -/
def encCoData (c : Cond) (p u n w l : Bool) (rn crd cp : BitVec 4) (off : BitVec 8) : Word :=
  place 28 c.bits ||| place 25 0b110#3 ||| place 24 (bit p) ||| place 23 (bit u) ||| place 22 (bit n) |||
    place 21 (bit w) ||| place 20 (bit l) ||| place 16 rn ||| place 12 crd ||| place 8 cp ||| place 0 off

/-- Coprocessor register transfer (R220). -/
def encCoReg (c : Cond) (opc : BitVec 3) (l : Bool) (crn rd cp : BitVec 4) (info : BitVec 3) (crm : BitVec 4) : Word :=
  place 28 c.bits ||| place 24 0b1110#4 ||| place 21 opc ||| place 20 (bit l) ||| place 16 crn ||| place 12 rd |||
    place 8 cp ||| place 5 info ||| place 4 1#1 ||| place 0 crm

/-- The word of an instruction (R72, R117; spec/opcode_table.json). -/
def encode (i : Instr) : Word :=
  match i with
  | .andImm c sb rn rd rot imm8 => encDpImm c 0x0#4 sb rn rd rot imm8
  | .andShiftImm c sb rn rd amt sh rm => encDpShiftImm c 0x0#4 sb rn rd amt sh rm
  | .andShiftReg c sb rn rd rs sh rm => encDpShiftReg c 0x0#4 sb rn rd rs sh rm
  | .eorImm c sb rn rd rot imm8 => encDpImm c 0x1#4 sb rn rd rot imm8
  | .eorShiftImm c sb rn rd amt sh rm => encDpShiftImm c 0x1#4 sb rn rd amt sh rm
  | .eorShiftReg c sb rn rd rs sh rm => encDpShiftReg c 0x1#4 sb rn rd rs sh rm
  | .subImm c sb rn rd rot imm8 => encDpImm c 0x2#4 sb rn rd rot imm8
  | .subShiftImm c sb rn rd amt sh rm => encDpShiftImm c 0x2#4 sb rn rd amt sh rm
  | .subShiftReg c sb rn rd rs sh rm => encDpShiftReg c 0x2#4 sb rn rd rs sh rm
  | .rsbImm c sb rn rd rot imm8 => encDpImm c 0x3#4 sb rn rd rot imm8
  | .rsbShiftImm c sb rn rd amt sh rm => encDpShiftImm c 0x3#4 sb rn rd amt sh rm
  | .rsbShiftReg c sb rn rd rs sh rm => encDpShiftReg c 0x3#4 sb rn rd rs sh rm
  | .addImm c sb rn rd rot imm8 => encDpImm c 0x4#4 sb rn rd rot imm8
  | .addShiftImm c sb rn rd amt sh rm => encDpShiftImm c 0x4#4 sb rn rd amt sh rm
  | .addShiftReg c sb rn rd rs sh rm => encDpShiftReg c 0x4#4 sb rn rd rs sh rm
  | .adcImm c sb rn rd rot imm8 => encDpImm c 0x5#4 sb rn rd rot imm8
  | .adcShiftImm c sb rn rd amt sh rm => encDpShiftImm c 0x5#4 sb rn rd amt sh rm
  | .adcShiftReg c sb rn rd rs sh rm => encDpShiftReg c 0x5#4 sb rn rd rs sh rm
  | .sbcImm c sb rn rd rot imm8 => encDpImm c 0x6#4 sb rn rd rot imm8
  | .sbcShiftImm c sb rn rd amt sh rm => encDpShiftImm c 0x6#4 sb rn rd amt sh rm
  | .sbcShiftReg c sb rn rd rs sh rm => encDpShiftReg c 0x6#4 sb rn rd rs sh rm
  | .rscImm c sb rn rd rot imm8 => encDpImm c 0x7#4 sb rn rd rot imm8
  | .rscShiftImm c sb rn rd amt sh rm => encDpShiftImm c 0x7#4 sb rn rd amt sh rm
  | .rscShiftReg c sb rn rd rs sh rm => encDpShiftReg c 0x7#4 sb rn rd rs sh rm
  | .tstImm c rn rot imm8 => encDpImm c 0x8#4 true rn 0#4 rot imm8
  | .tstShiftImm c rn amt sh rm => encDpShiftImm c 0x8#4 true rn 0#4 amt sh rm
  | .tstShiftReg c rn rs sh rm => encDpShiftReg c 0x8#4 true rn 0#4 rs sh rm
  | .teqImm c rn rot imm8 => encDpImm c 0x9#4 true rn 0#4 rot imm8
  | .teqShiftImm c rn amt sh rm => encDpShiftImm c 0x9#4 true rn 0#4 amt sh rm
  | .teqShiftReg c rn rs sh rm => encDpShiftReg c 0x9#4 true rn 0#4 rs sh rm
  | .cmpImm c rn rot imm8 => encDpImm c 0xA#4 true rn 0#4 rot imm8
  | .cmpShiftImm c rn amt sh rm => encDpShiftImm c 0xA#4 true rn 0#4 amt sh rm
  | .cmpShiftReg c rn rs sh rm => encDpShiftReg c 0xA#4 true rn 0#4 rs sh rm
  | .cmnImm c rn rot imm8 => encDpImm c 0xB#4 true rn 0#4 rot imm8
  | .cmnShiftImm c rn amt sh rm => encDpShiftImm c 0xB#4 true rn 0#4 amt sh rm
  | .cmnShiftReg c rn rs sh rm => encDpShiftReg c 0xB#4 true rn 0#4 rs sh rm
  | .orrImm c sb rn rd rot imm8 => encDpImm c 0xC#4 sb rn rd rot imm8
  | .orrShiftImm c sb rn rd amt sh rm => encDpShiftImm c 0xC#4 sb rn rd amt sh rm
  | .orrShiftReg c sb rn rd rs sh rm => encDpShiftReg c 0xC#4 sb rn rd rs sh rm
  | .movImm c sb rd rot imm8 => encDpImm c 0xD#4 sb 0#4 rd rot imm8
  | .movShiftImm c sb rd amt sh rm => encDpShiftImm c 0xD#4 sb 0#4 rd amt sh rm
  | .movShiftReg c sb rd rs sh rm => encDpShiftReg c 0xD#4 sb 0#4 rd rs sh rm
  | .bicImm c sb rn rd rot imm8 => encDpImm c 0xE#4 sb rn rd rot imm8
  | .bicShiftImm c sb rn rd amt sh rm => encDpShiftImm c 0xE#4 sb rn rd amt sh rm
  | .bicShiftReg c sb rn rd rs sh rm => encDpShiftReg c 0xE#4 sb rn rd rs sh rm
  | .mvnImm c sb rd rot imm8 => encDpImm c 0xF#4 sb 0#4 rd rot imm8
  | .mvnShiftImm c sb rd amt sh rm => encDpShiftImm c 0xF#4 sb 0#4 rd amt sh rm
  | .mvnShiftReg c sb rd rs sh rm => encDpShiftReg c 0xF#4 sb 0#4 rd rs sh rm
  | .mrs c spsr rd =>
    place 28 c.bits ||| place 23 0b00010#5 ||| place 22 (bit spsr) ||| place 16 0b001111#6 ||| place 12 rd
  | .msrReg c spsr fields rm =>
    place 28 c.bits ||| place 23 0b00010#5 ||| place 22 (bit spsr) ||| place 20 0b10#2 ||| place 16 fields |||
      place 4 0xF00#12 ||| place 0 rm
  | .msrImm c spsr fields rot imm8 =>
    place 28 c.bits ||| place 23 0b00110#5 ||| place 22 (bit spsr) ||| place 20 0b10#2 ||| place 16 fields |||
      place 12 0xF#4 ||| place 8 rot ||| place 0 imm8
  | .mul c sb rd rs rm => encMultiply c 0b0000000#7 sb rd 0#4 rs rm
  | .mla c sb rd rn rs rm => encMultiply c 0b0000001#7 sb rd rn rs rm
  | .umull c sb rdHi rdLo rs rm => encMultiply c 0b0000100#7 sb rdHi rdLo rs rm
  | .umlal c sb rdHi rdLo rs rm => encMultiply c 0b0000101#7 sb rdHi rdLo rs rm
  | .smull c sb rdHi rdLo rs rm => encMultiply c 0b0000110#7 sb rdHi rdLo rs rm
  | .smlal c sb rdHi rdLo rs rm => encMultiply c 0b0000111#7 sb rdHi rdLo rs rm
  | .swp c rn rd rm => encSwap c false rn rd rm
  | .swpb c rn rd rm => encSwap c true rn rd rm
  | .bx c rn => place 28 c.bits ||| place 4 0x12FFF1#24 ||| place 0 rn
  | .ldrhReg c p u w rn rd rm => encHalfReg c p u w true rn rd 0b01#2 rm
  | .ldrhImm c p u w rn rd off => encHalfImm c p u w true rn rd 0b01#2 off
  | .strhReg c p u w rn rd rm => encHalfReg c p u w false rn rd 0b01#2 rm
  | .strhImm c p u w rn rd off => encHalfImm c p u w false rn rd 0b01#2 off
  | .ldrsbReg c p u w rn rd rm => encHalfReg c p u w true rn rd 0b10#2 rm
  | .ldrsbImm c p u w rn rd off => encHalfImm c p u w true rn rd 0b10#2 off
  | .ldrshReg c p u w rn rd rm => encHalfReg c p u w true rn rd 0b11#2 rm
  | .ldrshImm c p u w rn rd off => encHalfImm c p u w true rn rd 0b11#2 off
  | .ldrImm c p u w rn rd off => encSingleImm c p u false w true rn rd off
  | .ldrReg c p u w rn rd amt sh rm => encSingleReg c p u false w true rn rd amt sh rm
  | .strImm c p u w rn rd off => encSingleImm c p u false w false rn rd off
  | .strReg c p u w rn rd amt sh rm => encSingleReg c p u false w false rn rd amt sh rm
  | .ldrbImm c p u w rn rd off => encSingleImm c p u true w true rn rd off
  | .ldrbReg c p u w rn rd amt sh rm => encSingleReg c p u true w true rn rd amt sh rm
  | .strbImm c p u w rn rd off => encSingleImm c p u true w false rn rd off
  | .strbReg c p u w rn rd amt sh rm => encSingleReg c p u true w false rn rd amt sh rm
  | .ldmia c sb w rn list => encBlock c false true sb w true rn list
  | .ldmib c sb w rn list => encBlock c true true sb w true rn list
  | .ldmda c sb w rn list => encBlock c false false sb w true rn list
  | .ldmdb c sb w rn list => encBlock c true false sb w true rn list
  | .stmia c sb w rn list => encBlock c false true sb w false rn list
  | .stmib c sb w rn list => encBlock c true true sb w false rn list
  | .stmda c sb w rn list => encBlock c false false sb w false rn list
  | .stmdb c sb w rn list => encBlock c true false sb w false rn list
  | .b c off => place 28 c.bits ||| place 24 0b1010#4 ||| place 0 off
  | .bl c off => place 28 c.bits ||| place 24 0b1011#4 ||| place 0 off
  | .ldc c p u n w rn crd cp off => encCoData c p u n w true rn crd cp off
  | .stc c p u n w rn crd cp off => encCoData c p u n w false rn crd cp off
  | .cdp c opc crn crd cp info crm =>
    place 28 c.bits ||| place 24 0b1110#4 ||| place 20 opc ||| place 16 crn ||| place 12 crd ||| place 8 cp |||
      place 5 info ||| place 0 crm
  | .mrc c opc crn rd cp info crm => encCoReg c opc true crn rd cp info crm
  | .mcr c opc crn rd cp info crm => encCoReg c opc false crn rd cp info crm
  | .swi c comment => place 28 c.bits ||| place 24 0b1111#4 ||| place 0 comment
  | .undefined c hi lo => place 28 c.bits ||| place 25 0b011#3 ||| place 5 hi ||| place 4 1#1 ||| place 0 lo

end Sys2Proof
end

