-- ==== Sys2Proof/Machine/State.lean ====
section
/-! DEFINITION. The state of the machine as plain data (10_state.md R20 to R44), the reasons a step can stop, and the
state right after reset (10_state.md R43, 70_reset_and_hazards.md R280, R282).

Beside the architectural state, State holds what the spec makes a parameter of the step (00_scope.md R10, 10_state.md
R42): the levels of the request inputs and the platform. No step writes the platform. -/

namespace Sys2Proof.Machine

/-- The 30 general registers that have a bank (R21, R23); the 31st, R15, is `State.pc`. A name without a suffix is the
User and System copy, or the one copy where there is no other. -/
inductive PhysReg where
  | r0 | r1 | r2 | r3 | r4 | r5 | r6 | r7 | r8 | r9 | r10 | r11 | r12 | r13 | r14
  | r8Fiq | r9Fiq | r10Fiq | r11Fiq | r12Fiq | r13Fiq | r14Fiq
  | r13Svc | r14Svc | r13Abt | r14Abt | r13Irq | r14Irq | r13Und | r14Und
deriving DecidableEq, Repr

/-- The columns of Figure 1-2 (R23): `usr` serves User and System mode and has no SPSR (R36). -/
inductive Bank where
  | usr | fiq | svc | abt | irq | und
deriving DecidableEq, Repr

/-- Memory: (address, byte) pairs, addresses strictly rising, no entry equal to the byte an unlisted address reads as
(R40, assumption log 5). -/
abbrev Memory := List Host.Cell

/-- A region of the address space: `size` bytes from `base`. -/
structure Region where
  base : Nat
  size : Nat
deriving DecidableEq, Repr

/-- The kinds of access the memory system may abort (R61). -/
inductive AccessKind where
  | fetch | read | write
deriving DecidableEq, Repr

/-- An access of `kind` and of `width` bytes whose address lies in `region` is aborted. A list of such rules is the
parameter `Abort(addr, n, kind)` of R10 and R61: every function of an address, a width and a kind is the list of the
cases where it is true (log 10). -/
structure AbortRule where
  kind : AccessKind
  width : Nat
  region : Region
deriving DecidableEq, Repr

/-- MISALIGNED_WORD (R10, R54). -/
inductive MisalignedWord where
  | refuse | rotate
deriving DecidableEq, Repr

/-- RESERVED_WORD (R10, R90 (c)). -/
inductive ReservedWord where
  | refuse | undefinedTrap
deriving DecidableEq, Repr

/-- TIER2 (R7, R10): whether tier 2 instructions are let in or refused. -/
inductive Tier2 where
  | refuse | allow
deriving DecidableEq, Repr

/-- A piece of the architectural state, as `EndOfRun` may look at it (R10, R20). -/
inductive Observed where
  | reg (p : PhysReg)
  | pc | cpsr | spsrFiq | spsrSvc | spsrAbt | spsrIrq | spsrUnd
  | byte (a : Word)
  | irqLine | fiqLine
deriving DecidableEq, Repr

/-- A predicate on the state, as plain data: the parameter `EndOfRun` of R10 (D22). `bits what mask value` holds where the
bits of `what` that `mask` selects are those of `value`. The state is finitely many bits, so every predicate on it is such
a term (log 14). -/
inductive HaltTest where
  | never
  | bits (what : Observed) (mask value : Word)
  | not (t : HaltTest)
  | both (t u : HaltTest)
  | either (t u : HaltTest)
deriving DecidableEq, Repr

/-- The parameters of R10 that are fixed for a run. -/
structure Platform where
  /-- BIGEND (R50): true is big-endian. -/
  bigEndian : Bool
  /-- MemMap (R61): the regions backed by memory. -/
  memMap : List Region
  /-- Abort (R61). -/
  aborts : List AbortRule
  /-- Text (R63): the regions that hold program text. -/
  text : List Region
  misaligned : MisalignedWord
  reserved : ReservedWord
  tier2 : Tier2
  /-- EndOfRun (R10, D22). -/
  endOfRun : HaltTest
deriving DecidableEq, Repr

/-- What the environment drives at one instruction boundary: the levels of the IRQ and FIQ inputs (R41, R250) and
whether a reset happens there (R244, R281). Log 12. -/
structure Lines where
  reset : Bool
  fiq : Bool
  irq : Bool
deriving DecidableEq, Repr

/-- The state of the machine (R20). -/
structure State where
  /-- The banked registers (R21, R23), in the order of `PhysReg`. -/
  regs : Vector Word 30
  /-- R15: the address of the instruction under execution (R12, R26). -/
  pc : Word
  /-- The words the core has fetched ahead (R27, R41 (b)): between instructions those at pc and pc + 4, while an instruction
  runs those at pc + 4 and pc + 8; none after a control transfer. A store does not change them (R63, R288; log 33). -/
  prefetched : Option (Word × Word)
  /-- The current status register (R29, R30). -/
  cpsr : Word
  /-- SPSR_fiq (R36). -/
  spsrFiq : Word
  /-- SPSR_svc (R36). -/
  spsrSvc : Word
  /-- SPSR_abt (R36). -/
  spsrAbt : Word
  /-- SPSR_irq (R36). -/
  spsrIrq : Word
  /-- SPSR_und (R36). -/
  spsrUnd : Word
  /-- The one memory of instructions and data (R40). -/
  mem : Memory
  /-- What the environment drives at this boundary (R41). -/
  lines : Lines
  /-- What it will drive at the boundaries to come; when the list is empty the levels stay (log 12). -/
  upcoming : List Lines
  /-- The parameters of the step (R42). -/
  platform : Platform
  /-- The number of the next free value: the model's own field (log 15). -/
  draws : Nat
deriving DecidableEq, Repr

/-- Why the machine stops with a fault. -/
inductive Fault where
  /-- The fetch, or a load or store, is outside MemMap and no abort claims it: the spec's "stuck" (R61, D10). Safe. -/
  | unmapped
  /-- The run is over: the EndOfRun predicate of the platform holds (R10, D22, R259). Raised by the step. Safe. -/
  | endOfRun
deriving DecidableEq, Repr

/-- Why a step is refused: the spec's `refuse` (R12), each case by its own name. -/
inductive Refusal where
  /-- Raised by `exec` for an instruction that has no meaning yet. Safe. -/
  | notModelled (mnemonic : String)
  /-- The condition field is 0b1111 (R76, D7). Raised by the step. Safe. -/
  | neverCondition
  /-- A word of no row under RESERVED_WORD = refuse (R90 (c), D8). Raised by the step. Safe. -/
  | reservedWord
  /-- A tier 2 instruction under TIER2 = refuse (R7, D2). Raised by the step. Safe. -/
  | tier2NotAdmitted
  /-- A value with bits 1:0 not 00 is written to R15 (R28, D6). Raised by every writer of R15. Safe. -/
  | misalignedPc
  /-- A step would set T = 1 (R33, D3): BX to an odd address, an exception return or MSR. Safe. -/
  | thumbState
  /-- M would be none of the seven modes (R34, D20): an exception return or MSR. Safe. -/
  | illegalMode
  /-- The SPSR is named in User or System mode (R36, D16): MRS, MSR, S with Rd = R15, LDM `^` with R15. Safe. -/
  | noSpsr
  /-- Sequential execution past 0xFFFFFFFC (R28, D21). Raised by every instruction that falls through. Safe. -/
  | pcWrap
  /-- A misaligned word access under MISALIGNED_WORD = refuse (R54, D5). Raised by word loads, stores, swaps and block
  transfers. Safe. -/
  | misalignedWord
  /-- A misaligned halfword access (R55, D5). Raised by LDRH, LDRSH and STRH. Safe. -/
  | misalignedHalf
  /-- A store into program text (R63, D12). Raised by every store. Safe. -/
  | storeToText
  /-- An operand combination the spec refuses (D16). Raised by the meaning whose fields they are. Safe. -/
  | unpredictableOperands
  /-- P = 0 with W = 1, the T variants (R160, R212, D23). Raised by single and halfword transfers. Safe. -/
  | userTransfer
  /-- The User-bank form of LDM or STM with write-back, or in User or System mode (R177, D24). Safe. -/
  | userBankForm
deriving DecidableEq, Repr

/-- The platform of the launch state (log 1, 6 to 11, 14). -/
def Platform.atReset : Platform where
  bigEndian := false
  memMap := [⟨0, 4294967296⟩]
  aborts := []
  text := []
  misaligned := .rotate
  reserved := .undefinedTrap
  tier2 := .allow
  endOfRun := .never

/-- The machine right after reset (R43, R280): pc = 0, Supervisor mode, I = F = 1, T = 0, reserved bits 0. Every
register, flag and byte the spec leaves unspecified is zero (DESIGN CHOICE, log 2, 3, 5). -/
def State.reset : State where
  regs := Vector.replicate 30 0#32
  pc := 0x00000000
  prefetched := none
  cpsr := 0x000000D3
  spsrFiq := 0
  spsrSvc := 0
  spsrAbt := 0
  spsrIrq := 0
  spsrUnd := 0
  mem := []
  lines := ⟨false, false, false⟩
  upcoming := []
  platform := Platform.atReset
  draws := 0

end Sys2Proof.Machine
end

