-- ==== Sys2Proof/Machine/Psr.lean ====
section
/-! DEFINITION. The layout of the status registers (10_state.md R30, R34, R35), the bank a mode sees (R23) and the test
of the condition field (30_encoding.md R74). -/

namespace Sys2Proof.Machine

/-! ## Modes and banks -/

/-- The seven modes (R34). -/
inductive Mode where
  | usr | fiq | irq | svc | abt | und | sys
deriving DecidableEq, Repr

/-- M[4:0] of a mode, Table 1-3 (R34). -/
def Mode.bits (m : Mode) : BitVec 5 :=
  match m with
  | .usr => 0b10000 | .fiq => 0b10001 | .irq => 0b10010 | .svc => 0b10011
  | .abt => 0b10111 | .und => 0b11011 | .sys => 0b11111

/-- The mode a value of M[4:0] selects; the other 25 values select none (R34). -/
def Mode.ofBits (b : BitVec 5) : Option Mode :=
  match b.toNat with
  | 16 => some .usr | 17 => some .fiq | 18 => some .irq | 19 => some .svc
  | 23 => some .abt | 27 => some .und | 31 => some .sys | _ => none

/-- The bank that M[4:0] selects (R23). A value that is no mode never stands in the CPSR; it is given the User bank
(log 20). -/
def bankOf (b : BitVec 5) : Bank :=
  match b.toNat with
  | 17 => .fiq | 18 => .irq | 19 => .svc | 23 => .abt | 27 => .und | _ => .usr

/-- `phys(mode, i)` of R23 for R0 to R14. R15 has one copy, `State.pc`; every accessor tests for it first. -/
def physReg (b : Bank) (r : Reg) : PhysReg :=
  match r.toNat with
  | 0 => .r0 | 1 => .r1 | 2 => .r2 | 3 => .r3 | 4 => .r4 | 5 => .r5 | 6 => .r6 | 7 => .r7
  | 8 => if b = .fiq then .r8Fiq else .r8
  | 9 => if b = .fiq then .r9Fiq else .r9
  | 10 => if b = .fiq then .r10Fiq else .r10
  | 11 => if b = .fiq then .r11Fiq else .r11
  | 12 => if b = .fiq then .r12Fiq else .r12
  | 13 =>
    match b with
    | .usr => .r13 | .fiq => .r13Fiq | .svc => .r13Svc | .abt => .r13Abt | .irq => .r13Irq | .und => .r13Und
  | _ =>
    match b with
    | .usr => .r14 | .fiq => .r14Fiq | .svc => .r14Svc | .abt => .r14Abt | .irq => .r14Irq | .und => .r14Und

/-- The place of a register in `State.regs`. -/
def PhysReg.index (p : PhysReg) : Fin 30 :=
  match p with
  | .r0 => 0 | .r1 => 1 | .r2 => 2 | .r3 => 3 | .r4 => 4 | .r5 => 5 | .r6 => 6 | .r7 => 7
  | .r8 => 8 | .r9 => 9 | .r10 => 10 | .r11 => 11 | .r12 => 12 | .r13 => 13 | .r14 => 14
  | .r8Fiq => 15 | .r9Fiq => 16 | .r10Fiq => 17 | .r11Fiq => 18 | .r12Fiq => 19 | .r13Fiq => 20 | .r14Fiq => 21
  | .r13Svc => 22 | .r14Svc => 23 | .r13Abt => 24 | .r14Abt => 25
  | .r13Irq => 26 | .r14Irq => 27 | .r13Und => 28 | .r14Und => 29

/-! ## Fields of a status register (R30) -/

/-- N, bit 31. -/
def psrN (p : Word) : Bool := p.getLsbD 31
/-- Z, bit 30. -/
def psrZ (p : Word) : Bool := p.getLsbD 30
/-- C, bit 29. -/
def psrC (p : Word) : Bool := p.getLsbD 29
/-- V, bit 28. -/
def psrV (p : Word) : Bool := p.getLsbD 28
/-- I, bit 7: 1 disables IRQ (R32). -/
def psrI (p : Word) : Bool := p.getLsbD 7
/-- F, bit 6: 1 disables FIQ (R32). -/
def psrF (p : Word) : Bool := p.getLsbD 6
/-- T, bit 5: Thumb state (R33). -/
def psrT (p : Word) : Bool := p.getLsbD 5
/-- M[4:0] (R34). -/
def psrM (p : Word) : BitVec 5 := field p 0 5

/-- The bits of a status register that are not reserved: 31:28 and 7:0 (R30, R35). -/
def psrImplemented : Word := 0xF00000FF

/-- The four condition flags (R31). -/
structure Nzcv where
  n : Bool
  z : Bool
  c : Bool
  v : Bool
deriving DecidableEq, Repr

/-- The flags of a status register. -/
def psrFlags (p : Word) : Nzcv := ⟨psrN p, psrZ p, psrC p, psrV p⟩

/-- A status register with its flags replaced and every other bit kept (R31, R37). -/
def psrWithFlags (p : Word) (f : Nzcv) : Word :=
  place 31 (bit f.n) ||| place 30 (bit f.z) ||| place 29 (bit f.c) ||| place 28 (bit f.v) ||| place 0 (field p 0 28)

/-! ## The condition test (R74) -/

/-- `ConditionPassed(cond)` on a status register, Table 2-2 with the LS row as 90_conflicts.md C2 has it (R74). -/
def condPassed (c : Cond) (p : Word) : Bool :=
  match c with
  | .eq => psrZ p
  | .ne => !psrZ p
  | .cs => psrC p
  | .cc => !psrC p
  | .mi => psrN p
  | .pl => !psrN p
  | .vs => psrV p
  | .vc => !psrV p
  | .hi => psrC p && !psrZ p
  | .ls => !psrC p || psrZ p
  | .ge => psrN p == psrV p
  | .lt => psrN p != psrV p
  | .gt => !psrZ p && psrN p == psrV p
  | .le => psrZ p || psrN p != psrV p
  | .al => true

end Sys2Proof.Machine
end

