-- ==== Sys2Proof/Machine/Ops.lean ====
section
/-! DEFINITION. The named operations over memory, registers and status registers that the meanings share: memory access
(20_memory.md R50 to R61), register access (10_state.md R23, R27, R28), taking an exception (60_exceptions.md R243,
R253) and returning from one (41_data_processing.md R113, 60_exceptions.md R255). -/

namespace Sys2Proof.Machine

/-! ## Attempts -/

/-- What an operation inside an instruction comes to. -/
inductive Attempt (α : Type) where
  /-- It succeeds with a value. -/
  | ok (a : α)
  /-- The memory system aborts an access; `s` is the state in which the Data Abort is entered (R247). -/
  | abort (s : State)
  /-- The machine stops. -/
  | fault (r : Fault)
  /-- The spec refuses the case (R12). -/
  | refused (r : Refusal)
deriving DecidableEq, Repr

/-- Go on with the value of a successful attempt. -/
def Attempt.andThen {α β : Type} (x : Attempt α) (k : α → Attempt β) : Attempt β :=
  match x with
  | .ok a => k a
  | .abort s => .abort s
  | .fault r => .fault r
  | .refused r => .refused r

/-- Go on where a check holds, else refuse by name. -/
def require {α : Type} (ok : Bool) (r : Refusal) (k : Attempt α) : Attempt α :=
  if ok then k else .refused r

/-! ## Memory as data (R40, R50) -/

/-- The byte an address that is not listed reads as (DESIGN CHOICE, log 5). -/
def unlistedByte : Byte := 0#8

/-- The byte at a key of the list. -/
def Memory.lookup (m : Memory) (k : Nat) : Byte :=
  match m with
  | [] => unlistedByte
  | (j, v) :: rest => if j = k then v else Memory.lookup rest k

/-- The list with the byte at a key replaced; it keeps the canonical form. -/
def Memory.insert (m : Memory) (k : Nat) (v : Byte) : Memory :=
  match m with
  | [] => if v = unlistedByte then [] else [(k, v)]
  | (j, w) :: rest =>
    if k < j then (if v = unlistedByte then (j, w) :: rest else (k, v) :: (j, w) :: rest)
    else if k = j then (if v = unlistedByte then rest else (k, v) :: rest)
    else (j, w) :: Memory.insert rest k v

/-- The canonical form from a lower bound on: keys strictly rising, below 2^32, no entry equal to the unlisted byte. -/
def Memory.wfFrom (lo : Nat) (m : Memory) : Bool :=
  match m with
  | [] => true
  | (j, v) :: rest =>
    decide (lo ≤ j) && decide (j < 4294967296) && !decide (v = unlistedByte) && Memory.wfFrom (j + 1) rest

/-- The canonical form of memory. -/
def Memory.wf (m : Memory) : Bool := Memory.wfFrom 0 m

/-- `mem[a]` (R50). -/
def Memory.read (m : Memory) (a : Word) : Byte := m.lookup a.toNat

/-- `mem[a] <- v` (R50). -/
def Memory.write (m : Memory) (a : Word) (v : Byte) : Memory := m.insert a.toNat v

/-- Write bytes at `a` and the addresses that follow, modulo 2^32. -/
def Memory.writeBytes (m : Memory) (a : Word) (bs : List Byte) : Memory :=
  match bs with
  | [] => m
  | b :: rest => Memory.writeBytes (m.write a b) (a + 1) rest

/-- `MemRead(a, 4)` (R50). -/
def Memory.word (m : Memory) (big : Bool) (a : Word) : Word :=
  wordOfBytes big (m.read a) (m.read (a + 1)) (m.read (a + 2)) (m.read (a + 3))

/-- `MemRead(a, 2)` (R50). -/
def Memory.half (m : Memory) (big : Bool) (a : Word) : Half :=
  halfOfBytes big (m.read a) (m.read (a + 1))

/-- `MemWrite(a, 4, v)` (R50). -/
def Memory.setWord (m : Memory) (big : Bool) (a v : Word) : Memory := m.writeBytes a (bytesOfWord big v)

/-- `MemWrite(a, 2, v)` (R50). -/
def Memory.setHalf (m : Memory) (big : Bool) (a : Word) (v : Half) : Memory := m.writeBytes a (bytesOfHalf big v)

/-! ## The platform's word on an access (R61, R63) -/

/-- The addresses of the `n` bytes from `a` on. -/
def addrBytes (a : Word) (n : Nat) : List Word :=
  match n with
  | 0 => []
  | k + 1 => a :: addrBytes (a + 1) k

/-- The address lies in the region. -/
def Region.contains (r : Region) (a : Word) : Bool :=
  decide (r.base ≤ a.toNat) && decide (a.toNat < r.base + r.size)

/-- The address is in program text (R63). -/
def Platform.isText (p : Platform) (a : Word) : Bool := p.text.any (·.contains a)

/-- All `n` bytes are backed by memory (R61). That an access of which only some bytes lie in MemMap counts as outside it is
the model's choice: R61 speaks of its address alone (DESIGN CHOICE, log 32). -/
def Platform.mapped (p : Platform) (a : Word) (n : Nat) : Bool :=
  (addrBytes a n).all fun b => p.memMap.any (·.contains b)

/-- Some of the `n` bytes are program text (R63). -/
def Platform.inText (p : Platform) (a : Word) (n : Nat) : Bool := (addrBytes a n).any p.isText

/-- `Abort(a, n, kind)`: some rule is of this kind and width and holds the address (R10, R61, log 10). -/
def Platform.abortsAt (p : Platform) (kind : AccessKind) (a : Word) (n : Nat) : Bool :=
  p.aborts.any fun r => decide (r.kind = kind) && decide (r.width = n) && r.region.contains a

/-- Whether a read or write of `n` bytes at `a` may go ahead: an abort first, then MemMap, then, for a write, Text (R61,
R63, log 31). -/
def State.access (s : State) (kind : AccessKind) (a : Word) (n : Nat) : Attempt Unit :=
  if s.platform.abortsAt kind a n then .abort s
  else if !s.platform.mapped a n then .fault .unmapped
  else if decide (kind = .write) && s.platform.inText a n then .refused .storeToText
  else .ok ()

/-! ## The plain fields written -/

/-- The pc replaced. -/
def State.setPc (s : State) (v : Word) : State := { s with pc := v }

/-- A control transfer: the pc replaced, and the words fetched ahead dropped, so that the next instruction is fetched from
there (R28; log 33). -/
def State.jump (s : State) (v : Word) : State := { s with pc := v, prefetched := none }

/-- The CPSR replaced. -/
def State.setCpsr (s : State) (v : Word) : State := { s with cpsr := v }

/-- Memory replaced. -/
def State.setMem (s : State) (m : Memory) : State := { s with mem := m }

/-! ## Loads and stores (R50 to R57) -/

/-- The address is a multiple of 4 (R53). -/
def wordAligned (a : Word) : Bool := field a 0 2 == 0#2

/-- The multiple of 4 at or below an address (R54). -/
def alignDown (a : Word) : Word := a &&& 0xFFFFFFFC#32

/-- The address the memory sees for a word access: MISALIGNED_WORD decides for a misaligned one (R54). -/
def State.wordAddress (s : State) (a : Word) : Attempt Word :=
  if wordAligned a then .ok a
  else
    match s.platform.misaligned with
    | .refuse => .refused .misalignedWord
    | .rotate => .ok (alignDown a)

/-- `MemRead(a, 4)` of an address already settled (R50, R61). -/
def State.loadAligned (s : State) (a : Word) : Attempt Word :=
  (s.access .read a 4).andThen fun _ => .ok (s.mem.word s.platform.bigEndian a)

/-- `MemWrite(a, 4, v)` of an address already settled (R50, R61, R63). -/
def State.storeAligned (s : State) (a v : Word) : Attempt State :=
  (s.access .write a 4).andThen fun _ => .ok (s.setMem (s.mem.setWord s.platform.bigEndian a v))

/-- Load a word: a misaligned one, where it is not refused, is the aligned word rotated right by 8 * a[1:0] (R54). -/
def State.loadWord (s : State) (a : Word) : Attempt Word :=
  (s.wordAddress a).andThen fun b =>
    (s.loadAligned b).andThen fun v => .ok (v.rotateRight (8 * (field a 0 2).toNat))

/-- Store a word: a misaligned one, where it is not refused, goes unrotated to the aligned address (R54). -/
def State.storeWord (s : State) (a v : Word) : Attempt State :=
  (s.wordAddress a).andThen fun b => s.storeAligned b v

/-- Load a halfword; an odd address is refused (R55). -/
def State.loadHalf (s : State) (a : Word) : Attempt Half :=
  require (!a.getLsbD 0) .misalignedHalf
    ((s.access .read a 2).andThen fun _ => .ok (s.mem.half s.platform.bigEndian a))

/-- Store a halfword; an odd address is refused (R55). -/
def State.storeHalf (s : State) (a : Word) (v : Half) : Attempt State :=
  require (!a.getLsbD 0) .misalignedHalf
    ((s.access .write a 2).andThen fun _ => .ok (s.setMem (s.mem.setHalf s.platform.bigEndian a v)))

/-- Load a byte (R57). -/
def State.loadByte (s : State) (a : Word) : Attempt Byte :=
  (s.access .read a 1).andThen fun _ => .ok (s.mem.read a)

/-- Store a byte (R57). -/
def State.storeByte (s : State) (a : Word) (v : Byte) : Attempt State :=
  (s.access .write a 1).andThen fun _ => .ok (s.setMem (s.mem.write a v))

/-- Load `n` words from ascending addresses (R172, R173). -/
def State.loadWords (s : State) (a : Word) (n : Nat) : Attempt (List Word) :=
  match n with
  | 0 => .ok []
  | k + 1 => (s.loadAligned a).andThen fun v => (s.loadWords (a + 4) k).andThen fun vs => .ok (v :: vs)

/-- Store words at ascending addresses; an abort leaves the words below it written (R173, D25). -/
def State.storeWords (s : State) (a : Word) (vs : List Word) : Attempt State :=
  match vs with
  | [] => .ok s
  | v :: rest => (s.storeAligned a v).andThen fun t => t.storeWords (a + 4) rest

/-! ## General registers (R23, R27) -/

/-- The bank of the current mode (R23, R24). -/
def State.bank (s : State) : Bank := bankOf (psrM s.cpsr)

/-- A physical register. -/
def State.phys (s : State) (p : PhysReg) : Word := s.regs[p.index]

/-- A physical register written. -/
def State.setPhys (s : State) (p : PhysReg) (v : Word) : State :=
  { s with regs := s.regs.set p.index v p.index.isLt }

/-- `x[i]`, where R15 reads as the address of the instruction plus `ahead` (R12, R27). -/
def State.regAhead (s : State) (ahead : Word) (r : Reg) : Word :=
  if isPc r then s.pc + ahead else s.phys (physReg s.bank r)

/-- `x[i]` with R15 read as pc + 8: Rn, Rm and the base of a transfer (R27). -/
def State.reg (s : State) (r : Reg) : Word := s.regAhead 8 r

/-- `x[i]` with R15 read as pc + 12: a shift by register, and the value a store stores (R27). -/
def State.reg12 (s : State) (r : Reg) : Word := s.regAhead 12 r

/-- `x_usr[i]` as a store stores it: R15 as pc + 12 (R12, R177). -/
def State.userReg12 (s : State) (r : Reg) : Word :=
  if isPc r then s.pc + 12 else s.phys (physReg .usr r)

/-- `x[i] <- v` for R0 to R14; R15 is written by `writePc` alone. -/
def State.setReg (s : State) (r : Reg) (v : Word) : State := s.setPhys (physReg s.bank r) v

/-- `x_usr[i] <- v` for R0 to R14 (R12, R177). -/
def State.setUserReg (s : State) (r : Reg) (v : Word) : State := s.setPhys (physReg .usr r) v

/-! ## The program counter (R26, R28) -/

/-- `pc <- v`: refused where bits 1:0 are not 00 (R28, D6). -/
def State.writePc (s : State) (v : Word) : Attempt State :=
  require (wordAligned v) .misalignedPc (.ok (s.jump v))

/-- `pc <- pc + 4`, with the words fetched ahead kept: refused past 0xFFFFFFFC (R26, R28, D21). -/
def State.advance (s : State) : Attempt State :=
  require (s.pc != 0xFFFFFFFC#32) .pcWrap (.ok (s.setPc (s.pc + 4)))

/-- `x[i] <- v` as an instruction's last write: R15 jumps, any other register lets the pc advance (R12, R28). -/
def State.putReg (s : State) (r : Reg) (v : Word) : Attempt State :=
  if isPc r then s.writePc v else (s.setReg r v).advance

/-! ## Status registers (R36, R37) -/

/-- The SPSR of a bank; User and System mode have none (R36). -/
def State.spsrOf (s : State) (b : Bank) : Option Word :=
  match b with
  | .usr => none
  | .fiq => some s.spsrFiq
  | .svc => some s.spsrSvc
  | .abt => some s.spsrAbt
  | .irq => some s.spsrIrq
  | .und => some s.spsrUnd

/-- The SPSR of a bank written; User and System mode have none (R36). -/
def State.setSpsr (s : State) (b : Bank) (v : Word) : State :=
  match b with
  | .usr => s
  | .fiq => { s with spsrFiq := v }
  | .svc => { s with spsrSvc := v }
  | .abt => { s with spsrAbt := v }
  | .irq => { s with spsrIrq := v }
  | .und => { s with spsrUnd := v }

/-- The flags written, every other bit of the CPSR kept (R37). -/
def State.setFlags (s : State) (f : Nzcv) : State := s.setCpsr (psrWithFlags s.cpsr f)

/-- The CPSR loaded from an SPSR: refused where T is 1 (R33) or M is no mode (R34). -/
def State.loadCpsr (s : State) (saved : Word) : Attempt State :=
  require (!psrT saved) .thumbState
    (require (Mode.ofBits (psrM saved)).isSome .illegalMode (.ok (s.setCpsr saved)))

/-! ## Exceptions -/

/-- The exceptions entered by the sequence of R243; reset has its own (R280). -/
inductive Exn where
  | undefined | swi | prefetchAbort | dataAbort | irq | fiq
deriving DecidableEq, Repr

/-- The mode an exception enters (R240). -/
def Exn.mode (e : Exn) : Mode :=
  match e with
  | .undefined => .und
  | .swi => .svc
  | .prefetchAbort => .abt
  | .dataAbort => .abt
  | .irq => .irq
  | .fiq => .fiq

/-- The bank of the mode an exception enters (R23, R240). -/
def Exn.bank (e : Exn) : Bank :=
  match e with
  | .undefined => .und
  | .swi => .svc
  | .prefetchAbort => .abt
  | .dataAbort => .abt
  | .irq => .irq
  | .fiq => .fiq

/-- The vector address (R240, with 90_conflicts.md C1). -/
def Exn.vector (e : Exn) : Word :=
  match e with
  | .undefined => 0x00000004
  | .swi => 0x00000008
  | .prefetchAbort => 0x0000000C
  | .dataAbort => 0x00000010
  | .irq => 0x00000018
  | .fiq => 0x0000001C

/-- What is added to A for the link value (R253). -/
def Exn.linkOffset (e : Exn) : Word :=
  match e with
  | .dataAbort => 8
  | _ => 4

/-- The CPSR after entry: M the new mode, T = 0, I = 1, F = 1 for FIQ and else kept, the rest kept (R243). -/
def entryPsr (e : Exn) (p : Word) : Word :=
  place 8 (field p 8 24) ||| place 7 1#1 ||| place 6 (bit (decide (e = .fiq) || psrF p)) ||| place 0 e.mode.bits

/-- Taking an exception: the link into R14 of the mode entered, the CPSR into its SPSR, the new CPSR, the pc at the
vector (R243). The pc of `s` is the address A of R253. -/
def State.enter (s : State) (e : Exn) : State :=
  (((s.setPhys (physReg e.bank 14#4) (s.pc + e.linkOffset)).setSpsr e.bank s.cpsr).setCpsr
    (entryPsr e s.cpsr)).jump e.vector

/-- Returning from one: the pc from a value and the CPSR from the SPSR of the current mode, refused in User and System
mode (R113, R176, R255). -/
def State.exceptionReturn (s : State) (target : Word) : Attempt State :=
  match s.spsrOf s.bank with
  | none => .refused .noSpsr
  | some saved => (s.writePc target).andThen fun t => t.loadCpsr saved

/-! ## Free values -/

/-- The next free bit, and the one after it (R12 `draw`, R191, R194; log 15). -/
def State.freeBit (s : State) (k : Nat) : Bool := (Config.freeWord (s.draws + k)).getLsbD 0

/-- `n` free values are used up. -/
def State.drew (s : State) (n : Nat) : State := { s with draws := s.draws + n }

/-! ## An instruction as a whole -/

/-- The outcome of an instruction: an aborted access enters the Data Abort exception (R247). -/
def Attempt.outcome (x : Attempt State) : Host.Outcome State Fault Refusal :=
  match x with
  | .ok t => .next t
  | .abort t => .next (t.enter .dataAbort)
  | .fault r => .fault r
  | .refused r => .refused r

/-- An instruction under its condition: where the condition fails it does nothing and the pc advances (R75). -/
def conditional (c : Cond) (s : State) (body : Attempt State) : Host.Outcome State Fault Refusal :=
  if condPassed c s.cpsr then body.outcome else s.advance.outcome

end Sys2Proof.Machine
end

