-- ==== Sys2Proof/Machine/Boundary.lean ====
section
/-! DEFINITION. What happens between instructions: the reset event (70_reset_and_hazards.md R280, 60_exceptions.md R244),
the interrupt requests (R249, R250), the fetch (20_memory.md R51, R61, 60_exceptions.md R246), and the environment moving
to the next boundary (log 12). -/

namespace Sys2Proof.Machine

/-- Memory after a reset event: a free list of bytes written over it, program text excepted (R43, R63, R280; log 13). -/
def Memory.scramble (m : Memory) (p : Platform) (cells : List (Word × Byte)) : Memory :=
  match cells with
  | [] => m
  | (a, v) :: rest => Memory.scramble (if p.isText a then m else m.write a v) p rest

/-- The general registers drawn by a reset event (R43, R280). -/
def drawnRegs (n : Nat) : Vector Word 30 := Vector.ofFn fun i => Config.freeWord (n + i.val)

/-- A drawn SPSR: its reserved bits are 0 (R35, R43). -/
def drawnSpsr (n : Nat) : Word := Config.freeWord n &&& psrImplemented

/-- The CPSR after a reset event: I = F = 1, T = 0, Supervisor mode, reserved bits 0, and drawn flags (R280, R43). -/
def resetPsr (n : Nat) : Word := place 28 (field (Config.freeWord n) 28 4) ||| place 0 0xD3#8

/-- A reset event: pc = 0 and the CPSR as R280 says; everything else the core holds is unspecified, so drawn (R43, R244,
R280, log 13). -/
def State.takeReset (s : State) : State :=
  { s with
    regs := drawnRegs s.draws
    pc := 0
    prefetched := none
    cpsr := resetPsr (s.draws + 30)
    spsrFiq := drawnSpsr (s.draws + 31)
    spsrSvc := drawnSpsr (s.draws + 32)
    spsrAbt := drawnSpsr (s.draws + 33)
    spsrIrq := drawnSpsr (s.draws + 34)
    spsrUnd := drawnSpsr (s.draws + 35)
    mem := s.mem.scramble s.platform (Config.freeCells s.draws)
    draws := s.draws + 36 }

/-- The interrupt taken at this boundary: FIQ before IRQ, each where its mask bit is clear (R242, R250). -/
def State.interrupt (s : State) : Option Exn :=
  if s.lines.fiq && !psrF s.cpsr then some .fiq
  else if s.lines.irq && !psrI s.cpsr then some .irq
  else none

/-- The environment moves to the next boundary (R250, D13; log 12). -/
def State.tick (s : State) : State :=
  match s.upcoming with
  | [] => s
  | l :: rest => { s with lines := l, upcoming := rest }

/-- A step's outcome, with the environment moved on (log 12). -/
def tickOutcome (o : Host.Outcome State Fault Refusal) : Host.Outcome State Fault Refusal :=
  match o with
  | .next s => .next s.tick
  | .fault r => .fault r
  | .refused r => .refused r

/-- The word at the pc, as it was fetched: before this boundary, or now (R27, R41 (b), R63). -/
def State.wordNow (s : State) : Word :=
  match s.prefetched with
  | none => s.mem.word s.platform.bigEndian s.pc
  | some x => x.1

/-- The word at pc + 4, as it was fetched: before this boundary, or now. -/
def State.wordNext (s : State) : Word :=
  match s.prefetched with
  | none => s.mem.word s.platform.bigEndian (s.pc + 4)
  | some x => x.2

/-- The two words after the one about to run are fetched before it runs, so that no store of its own is seen in them (R27,
R63, R288). An abort of such a fetch, and a word outside MemMap, count only when the pc reaches it (R246, R259). -/
def State.fetchAhead (s : State) : State :=
  { s with prefetched := some (s.wordNext, s.mem.word s.platform.bigEndian (s.pc + 8)) }

/-- What the fetch of the next instruction comes to (R246, R259). -/
inductive Fetched where
  | word (w : Word)
  | abort
  | unmapped
deriving DecidableEq, Repr

/-- The fetch at the pc: an abort claims it first, else it is outside MemMap or gives the word at the pc,
`MemRead(pc, 4)` when it was fetched (R51, R61, R246, R259). -/
def State.fetch (s : State) : Fetched :=
  if s.platform.abortsAt .fetch s.pc 4 then .abort
  else if !s.platform.mapped s.pc 4 then .unmapped
  else .word s.wordNow

/-- The state with a word stored where the next fetch reads, in the byte order of the platform, and nothing fetched ahead
(R51). -/
def State.placeWord (s : State) (w : Word) : State :=
  (s.setMem (s.mem.setWord s.platform.bigEndian s.pc w)).jump s.pc

/-- A piece of the state as a word (R20). -/
def State.observe (s : State) (x : Observed) : Word :=
  match x with
  | .reg p => s.phys p
  | .pc => s.pc
  | .cpsr => s.cpsr
  | .spsrFiq => s.spsrFiq
  | .spsrSvc => s.spsrSvc
  | .spsrAbt => s.spsrAbt
  | .spsrIrq => s.spsrIrq
  | .spsrUnd => s.spsrUnd
  | .byte a => (s.mem.read a).zeroExtend 32
  | .irqLine => place 0 (bit s.lines.irq)
  | .fiqLine => place 0 (bit s.lines.fiq)

/-- The predicate holds of the state (R10). -/
def State.meets (s : State) (t : HaltTest) : Bool :=
  match t with
  | .never => false
  | .bits what mask value => s.observe what &&& mask == value &&& mask
  | .not u => !s.meets u
  | .both u v => s.meets u && s.meets v
  | .either u v => s.meets u || s.meets v

/-- The run is over (R10 EndOfRun, D22, R259). -/
def State.ended (s : State) : Bool := s.meets s.platform.endOfRun

/-- The predicate the spec recommends: the pc is at a halt address (R10, D22). -/
def haltAtPc (a : Word) : HaltTest := .bits .pc 0xFFFFFFFF a

end Sys2Proof.Machine
end

