-- ==== Sys2Proof/Machine/Operands.lean ====
section
/-! DEFINITION. The operand forms: operand 2 of data processing through the barrel shifter (30_encoding.md R78 to R84),
the offset and address of a transfer (43_single_data_transfer.md R151 to R153, 47_halfword_transfer.md R211, R212), the
registers and addresses of a block transfer (44_block_data_transfer.md R172), the branch target (40_branch.md R100). -/

namespace Sys2Proof.Machine

/-! ## The barrel shifter -/

/-- What the shifter returns: operand 2 and the shifter carry-out (R78). -/
structure ShifterOut where
  value : Word
  carry : Bool
deriving DecidableEq, Repr

/-- All 32 bits equal to bit 31. -/
def signFill (m : Word) : Word := if m.getLsbD 31 then 0xFFFFFFFF else 0

/-- Shift by immediate, the table of R80; `n` is the field, 0 to 31, and `cin` the C flag. -/
def shiftByImm (t : ShiftType) (n : Nat) (m : Word) (cin : Bool) : ShifterOut :=
  match t with
  | .lsl => if n = 0 then ⟨m, cin⟩ else ⟨m <<< n, m.getLsbD (32 - n)⟩
  | .lsr => if n = 0 then ⟨0, m.getLsbD 31⟩ else ⟨m >>> n, m.getLsbD (n - 1)⟩
  | .asr => if n = 0 then ⟨signFill m, m.getLsbD 31⟩ else ⟨m.sshiftRight n, m.getLsbD (n - 1)⟩
  | .ror => if n = 0 then ⟨place 31 (bit cin) ||| m >>> 1, m.getLsbD 0⟩ else ⟨m.rotateRight n, m.getLsbD (n - 1)⟩

/-- Shift by register, the table of R81; `n` is the low byte of Rs, 0 to 255, and `cin` the C flag. -/
def shiftByReg (t : ShiftType) (n : Nat) (m : Word) (cin : Bool) : ShifterOut :=
  if n = 0 then ⟨m, cin⟩
  else
    match t with
    | .lsl =>
      if n < 32 then ⟨m <<< n, m.getLsbD (32 - n)⟩
      else if n = 32 then ⟨0, m.getLsbD 0⟩
      else ⟨0, false⟩
    | .lsr =>
      if n < 32 then ⟨m >>> n, m.getLsbD (n - 1)⟩
      else if n = 32 then ⟨0, m.getLsbD 31⟩
      else ⟨0, false⟩
    | .asr => if n < 32 then ⟨m.sshiftRight n, m.getLsbD (n - 1)⟩ else ⟨signFill m, m.getLsbD 31⟩
    | .ror => if n % 32 = 0 then ⟨m, m.getLsbD 31⟩ else ⟨m.rotateRight (n % 32), m.getLsbD (n % 32 - 1)⟩

/-- The value of a rotated immediate (R83). -/
def rotatedImm (rot : BitVec 4) (imm8 : BitVec 8) : Word := (imm8.zeroExtend 32).rotateRight (2 * rot.toNat)

/-- Operand 2, immediate (R83). -/
def op2Imm (s : State) (rot : BitVec 4) (imm8 : BitVec 8) : ShifterOut :=
  ⟨rotatedImm rot imm8, if rot = 0#4 then psrC s.cpsr else (rotatedImm rot imm8).getLsbD 31⟩

/-- Operand 2, register shifted by an immediate: R15 reads as pc + 8 (R80, R27). -/
def op2ShiftImm (s : State) (amt : BitVec 5) (sh : ShiftType) (rm : Reg) : ShifterOut :=
  shiftByImm sh amt.toNat (s.reg rm) (psrC s.cpsr)

/-- Operand 2, register shifted by a register: R15 as Rm reads as pc + 12 (R81, R27). -/
def op2ShiftReg (s : State) (rs : Reg) (sh : ShiftType) (rm : Reg) : ShifterOut :=
  shiftByReg sh (field (s.reg12 rs) 0 8).toNat (s.reg12 rm) (psrC s.cpsr)

/-! ## Single and halfword transfers -/

/-- The offset of a single transfer by register (R151): R80 with the carry-out discarded. -/
def shiftedOffset (s : State) (amt : BitVec 5) (sh : ShiftType) (rm : Reg) : Word := (op2ShiftImm s amt sh rm).value

/-- The base moved by the offset, up or down by U (R153, R212). -/
def transferTarget (s : State) (u : Bool) (rn : Reg) (offset : Word) : Word :=
  if u then s.reg rn + offset else s.reg rn - offset

/-- The address of the access: pre-indexed by P, else the base (R153, R212). -/
def transferAddress (s : State) (p u : Bool) (rn : Reg) (offset : Word) : Word :=
  if p then transferTarget s u rn offset else s.reg rn

/-- Write-back of `target` to the base: always when post-indexed, else by W (R152, R153, R212). -/
def writeBack (t : State) (p w : Bool) (rn : Reg) (target : Word) : State :=
  if !p || w then t.setReg rn target else t

/-! ## Block transfers -/

/-- The registers of a list, lowest number first (R172). -/
def regsOf (list : BitVec 16) : List Reg :=
  [0#4, 1#4, 2#4, 3#4, 4#4, 5#4, 6#4, 7#4, 8#4, 9#4, 10#4, 11#4, 12#4, 13#4, 14#4, 15#4].filter
    fun r => list.getLsbD r.toNat

/-- The four addressing modes of Table 2-7 (R171). -/
inductive BlockMode where
  | ia | ib | da | db
deriving DecidableEq, Repr

/-- Four times the number of registers in the list. -/
def blockBytes (list : BitVec 16) : Word := BitVec.ofNat 32 (4 * (regsOf list).length)

/-- The address of the lowest register of the list, from a base (R172). -/
def blockStart (m : BlockMode) (base : Word) (list : BitVec 16) : Word :=
  match m with
  | .ia => base
  | .ib => base + 4
  | .da => base - blockBytes list + 4
  | .db => base - blockBytes list

/-- The base after write-back (R172). -/
def blockFinal (m : BlockMode) (base : Word) (list : BitVec 16) : Word :=
  match m with
  | .ia => base + blockBytes list
  | .ib => base + blockBytes list
  | .da => base - blockBytes list
  | .db => base - blockBytes list

/-! ## Branches -/

/-- The target of B and BL (R100). -/
def branchTarget (s : State) (off : BitVec 24) : Word := s.pc + 8 + ((off.signExtend 32) <<< 2)

end Sys2Proof.Machine
end

