-- ==== Sys2Proof/Machine/BlockTransfer.lean ====
section
/-! DEFINITION. Block data transfer (44_block_data_transfer.md). -/

namespace Sys2Proof.Machine

/-- What a block store stores for a register: the current or the User copy, R15 as pc + 12 (R173, R175, R177). -/
def blockValue (s : State) (user : Bool) (r : Reg) : Word := if user then s.userReg12 r else s.reg12 r

/-- Write the loaded words to the registers of the list other than R15, in the current or the User bank (R173, R177). -/
def writeLoaded (s : State) (user : Bool) (regs : List Reg) (vs : List Word) : State :=
  match regs, vs with
  | r :: rs, v :: ws =>
    writeLoaded (if isPc r then s else if user then s.setUserReg r v else s.setReg r v) user rs ws
  | _, _ => s

/-- The dynamic refusals of the User-bank form: User and System mode (R177, D24). -/
def userBankModeOk (s : State) (load sb : Bool) (list : BitVec 16) : Bool :=
  !(usesUserBank load sb list && decide (s.bank = .usr))

/-- The dynamic refusal of LDM with `^` and R15: User and System mode have no SPSR (R36, R176). -/
def returnModeOk (s : State) (load sb : Bool) (list : BitVec 16) : Bool :=
  !(load && sb && listHasPc list && decide (s.bank = .usr))

/-- The refusals of a block transfer, static and dynamic, before it runs (R36, R173, R176, R177, R178). -/
def checkedBlock (s : State) (load sb w : Bool) (rn : Reg) (list : BitVec 16) (k : Attempt State) : Attempt State :=
  require (blockOk w rn list) .unpredictableOperands
    (require (userBankOk load sb w list && userBankModeOk s load sb list) .userBankForm
      (require (returnModeOk s load sb list) .noSpsr k))

/-- LDM (R173): the words are all read before a register is written; then the base is written back, then the registers of
the list in the mode the instruction started in, then R15 (R175), then with `^` the CPSR (R176). A misaligned base,
where it is not refused, has its low two bits ignored for the addresses (R54). -/
def ldm (s : State) (m : BlockMode) (sb w : Bool) (rn : Reg) (list : BitVec 16) : Attempt State :=
  (s.wordAddress (s.reg rn)).andThen fun base =>
    (s.loadWords (blockStart m base list) (regsOf list).length).andThen fun vs =>
      let s1 := if w then s.setReg rn (blockFinal m (s.reg rn) list) else s
      let s2 := writeLoaded s1 (usesUserBank true sb list) (regsOf list) vs
      if listHasPc list then
        if sb then s2.exceptionReturn (vs.getLastD 0) else s2.writePc (vs.getLastD 0)
      else s2.advance

/-- STM (R173): the values are those before the instruction; the base is written back after the last store. -/
def stm (s : State) (m : BlockMode) (sb w : Bool) (rn : Reg) (list : BitVec 16) : Attempt State :=
  (s.wordAddress (s.reg rn)).andThen fun base =>
    (s.storeWords (blockStart m base list) ((regsOf list).map (blockValue s (usesUserBank false sb list)))).andThen
      fun t => (if w then t.setReg rn (blockFinal m (s.reg rn) list) else t).advance

/-- LDMIA (R180). -/
def execLdmia (c : Cond) (sb w : Bool) (rn : Reg) (list : BitVec 16) (s : State) : Host.Outcome State Fault Refusal :=
  conditional c s (checkedBlock s true sb w rn list (ldm s .ia sb w rn list))

/-- LDMIB (R181). -/
def execLdmib (c : Cond) (sb w : Bool) (rn : Reg) (list : BitVec 16) (s : State) : Host.Outcome State Fault Refusal :=
  conditional c s (checkedBlock s true sb w rn list (ldm s .ib sb w rn list))

/-- LDMDA (R182). -/
def execLdmda (c : Cond) (sb w : Bool) (rn : Reg) (list : BitVec 16) (s : State) : Host.Outcome State Fault Refusal :=
  conditional c s (checkedBlock s true sb w rn list (ldm s .da sb w rn list))

/-- LDMDB (R183). -/
def execLdmdb (c : Cond) (sb w : Bool) (rn : Reg) (list : BitVec 16) (s : State) : Host.Outcome State Fault Refusal :=
  conditional c s (checkedBlock s true sb w rn list (ldm s .db sb w rn list))

/-- STMIA (R184). -/
def execStmia (c : Cond) (sb w : Bool) (rn : Reg) (list : BitVec 16) (s : State) : Host.Outcome State Fault Refusal :=
  conditional c s (checkedBlock s false sb w rn list (stm s .ia sb w rn list))

/-- STMIB (R185). -/
def execStmib (c : Cond) (sb w : Bool) (rn : Reg) (list : BitVec 16) (s : State) : Host.Outcome State Fault Refusal :=
  conditional c s (checkedBlock s false sb w rn list (stm s .ib sb w rn list))

/-- STMDA (R186). -/
def execStmda (c : Cond) (sb w : Bool) (rn : Reg) (list : BitVec 16) (s : State) : Host.Outcome State Fault Refusal :=
  conditional c s (checkedBlock s false sb w rn list (stm s .da sb w rn list))

/-- STMDB (R187). -/
def execStmdb (c : Cond) (sb w : Bool) (rn : Reg) (list : BitVec 16) (s : State) : Host.Outcome State Fault Refusal :=
  conditional c s (checkedBlock s false sb w rn list (stm s .db sb w rn list))

end Sys2Proof.Machine
end

