-- ==== Sys2Proof/Machine/Branch.lean ====
section
/-! DEFINITION. Branch instructions (40_branch.md). -/

namespace Sys2Proof.Machine

/-- B (R101). -/
def execB (c : Cond) (off : BitVec 24) (s : State) : Host.Outcome State Fault Refusal :=
  conditional c s (s.writePc (branchTarget s off))

/-- BL: R14 of the current mode gets the address of the next instruction (R102). -/
def execBl (c : Cond) (off : BitVec 24) (s : State) : Host.Outcome State Fault Refusal :=
  conditional c s ((s.setReg 14#4 (s.pc + 4)).writePc (branchTarget s off))

/-- BX: an odd value would enter Thumb state, which is refused (R103, D3). -/
def execBx (c : Cond) (rn : Reg) (s : State) : Host.Outcome State Fault Refusal :=
  conditional c s
    (require (bxOk rn) .unpredictableOperands
      (require (!(s.reg rn).getLsbD 0) .thumbState (s.writePc (s.reg rn))))

end Sys2Proof.Machine
end

