-- ==== Sys2Proof/Machine/Coprocessor.lean ====
section
/-! DEFINITION. Coprocessor instructions, software interrupt and the undefined instruction
(48_coprocessor_swi_undefined.md). No coprocessor is attached: the five coprocessor instructions take the Undefined
Instruction exception, and no register is read or written before it (R221, D9). -/

namespace Sys2Proof.Machine

/-- LDC (R222). -/
def execLdc (c : Cond) (s : State) : Host.Outcome State Fault Refusal :=
  conditional c s (.ok (s.enter .undefined))

/-- STC (R223). -/
def execStc (c : Cond) (s : State) : Host.Outcome State Fault Refusal :=
  conditional c s (.ok (s.enter .undefined))

/-- CDP (R224). -/
def execCdp (c : Cond) (s : State) : Host.Outcome State Fault Refusal :=
  conditional c s (.ok (s.enter .undefined))

/-- MRC (R228). -/
def execMrc (c : Cond) (s : State) : Host.Outcome State Fault Refusal :=
  conditional c s (.ok (s.enter .undefined))

/-- MCR (R229). -/
def execMcr (c : Cond) (s : State) : Host.Outcome State Fault Refusal :=
  conditional c s (.ok (s.enter .undefined))

/-- SWI: the 24-bit field is ignored by the processor (R225). -/
def execSwi (c : Cond) (s : State) : Host.Outcome State Fault Refusal :=
  conditional c s (.ok (s.enter .swi))

/-- UNDEFINED (R227). -/
def execUndefined (c : Cond) (s : State) : Host.Outcome State Fault Refusal :=
  conditional c s (.ok (s.enter .undefined))

end Sys2Proof.Machine
end

