-- ==== Sys2Proof/Machine/Flags.lean ====
section
/-! DEFINITION. The flag computations: the adder (41_data_processing.md R115), the flags of the logical and of the
arithmetic class (R111, R112) and of the multiplies (45_multiply.md R191, R194). -/

namespace Sys2Proof.Machine

/-- The result of the adder (R115). -/
structure AddOut where
  result : Word
  carry : Bool
  overflow : Bool
deriving DecidableEq, Repr

/-- `AddWithCarry(a, b, cin)`, computed on unbounded integers and narrowed (R115). -/
def addWithCarry (a b : Word) (cin : Bool) : AddOut :=
  let usum : Nat := a.toNat + b.toNat + cin.toNat
  let ssum : Int := a.toInt + b.toInt + (cin.toNat : Int)
  ⟨BitVec.ofNat 32 usum, decide (4294967296 ≤ usum), decide (ssum < -2147483648 ∨ 2147483647 < ssum)⟩

/-- The flags of the logical class: V is kept (R111). -/
def logicalFlags (p : Word) (result : Word) (carry : Bool) : Nzcv :=
  ⟨result.getLsbD 31, decide (result = 0#32), carry, psrV p⟩

/-- The flags of the arithmetic class (R112). -/
def arithFlags (r : AddOut) : Nzcv :=
  ⟨r.result.getLsbD 31, decide (r.result = 0#32), r.carry, r.overflow⟩

/-- MULS and MLAS: C is a free value, V is kept (R191). -/
def mulFlags (s : State) (result : Word) : Nzcv :=
  ⟨result.getLsbD 31, decide (result = 0#32), s.freeBit 0, psrV s.cpsr⟩

/-- The long multiplies with S: C and V are free values (R194). -/
def longFlags (s : State) (result : BitVec 64) : Nzcv :=
  ⟨result.getLsbD 63, decide (result = 0#64), s.freeBit 0, s.freeBit 1⟩

end Sys2Proof.Machine
end

