-- ==== Sys2Proof/Machine/DataProcessing.lean ====
section
/-! DEFINITION. Data processing (41_data_processing.md): sixteen operations, each with the three forms of operand 2. The
immediate form and the shift by an immediate read R15 as pc + 8, the shift by a register as pc + 12 (R27). -/

namespace Sys2Proof.Machine

/-- Rd written, and with S the flags; Rd = R15 jumps, or with S returns from an exception (R113, R114). -/
def dpWrite (s : State) (sb : Bool) (rd : Reg) (result : Word) (flags : Nzcv) : Attempt State :=
  if isPc rd then (if sb then s.exceptionReturn result else s.writePc result)
  else (if sb then (s.setReg rd result).setFlags flags else s.setReg rd result).advance

/-- An operation of the logical class with Rd (R111). -/
def dpLogical (s : State) (sb : Bool) (rd : Reg) (result : Word) (carry : Bool) : Attempt State :=
  dpWrite s sb rd result (logicalFlags s.cpsr result carry)

/-- An operation of the arithmetic class with Rd (R112). -/
def dpArith (s : State) (sb : Bool) (rd : Reg) (r : AddOut) : Attempt State :=
  dpWrite s sb rd r.result (arithFlags r)

/-- TST and TEQ: the flags alone (R111, R126, R127). -/
def dpTest (s : State) (result : Word) (carry : Bool) : Attempt State :=
  (s.setFlags (logicalFlags s.cpsr result carry)).advance

/-- CMP and CMN: the flags alone (R112, R128, R129). -/
def dpCompare (s : State) (r : AddOut) : Attempt State :=
  (s.setFlags (arithFlags r)).advance

/-- AND, immediate operand 2 (R118, R83). -/
def execAndImm (c : Cond) (sb : Bool) (rn rd : Reg) (rot : BitVec 4) (imm8 : BitVec 8) (s : State) :
    Host.Outcome State Fault Refusal :=
  conditional c s (dpLogical s sb rd ((s.reg rn) &&& (op2Imm s rot imm8).value) (op2Imm s rot imm8).carry)

/-- AND, register shifted by an immediate (R118, R80). -/
def execAndShiftImm (c : Cond) (sb : Bool) (rn rd : Reg) (amt : BitVec 5) (sh : ShiftType) (rm : Reg) (s : State) :
    Host.Outcome State Fault Refusal :=
  conditional c s (dpLogical s sb rd ((s.reg rn) &&& (op2ShiftImm s amt sh rm).value) (op2ShiftImm s amt sh rm).carry)

/-- AND, register shifted by a register (R118, R81). -/
def execAndShiftReg (c : Cond) (sb : Bool) (rn rd : Reg) (rs : Reg) (sh : ShiftType) (rm : Reg) (s : State) :
    Host.Outcome State Fault Refusal :=
  conditional c s
    (require (shiftRegOk rs) .unpredictableOperands
      (dpLogical s sb rd ((s.reg12 rn) &&& (op2ShiftReg s rs sh rm).value) (op2ShiftReg s rs sh rm).carry))

/-- EOR, immediate operand 2 (R119, R83). -/
def execEorImm (c : Cond) (sb : Bool) (rn rd : Reg) (rot : BitVec 4) (imm8 : BitVec 8) (s : State) :
    Host.Outcome State Fault Refusal :=
  conditional c s (dpLogical s sb rd ((s.reg rn) ^^^ (op2Imm s rot imm8).value) (op2Imm s rot imm8).carry)

/-- EOR, register shifted by an immediate (R119, R80). -/
def execEorShiftImm (c : Cond) (sb : Bool) (rn rd : Reg) (amt : BitVec 5) (sh : ShiftType) (rm : Reg) (s : State) :
    Host.Outcome State Fault Refusal :=
  conditional c s (dpLogical s sb rd ((s.reg rn) ^^^ (op2ShiftImm s amt sh rm).value) (op2ShiftImm s amt sh rm).carry)

/-- EOR, register shifted by a register (R119, R81). -/
def execEorShiftReg (c : Cond) (sb : Bool) (rn rd : Reg) (rs : Reg) (sh : ShiftType) (rm : Reg) (s : State) :
    Host.Outcome State Fault Refusal :=
  conditional c s
    (require (shiftRegOk rs) .unpredictableOperands
      (dpLogical s sb rd ((s.reg12 rn) ^^^ (op2ShiftReg s rs sh rm).value) (op2ShiftReg s rs sh rm).carry))

/-- SUB, immediate operand 2 (R120, R83). -/
def execSubImm (c : Cond) (sb : Bool) (rn rd : Reg) (rot : BitVec 4) (imm8 : BitVec 8) (s : State) :
    Host.Outcome State Fault Refusal :=
  conditional c s (dpArith s sb rd (addWithCarry (s.reg rn) (~~~(op2Imm s rot imm8).value) true))

/-- SUB, register shifted by an immediate (R120, R80). -/
def execSubShiftImm (c : Cond) (sb : Bool) (rn rd : Reg) (amt : BitVec 5) (sh : ShiftType) (rm : Reg) (s : State) :
    Host.Outcome State Fault Refusal :=
  conditional c s (dpArith s sb rd (addWithCarry (s.reg rn) (~~~(op2ShiftImm s amt sh rm).value) true))

/-- SUB, register shifted by a register (R120, R81). -/
def execSubShiftReg (c : Cond) (sb : Bool) (rn rd : Reg) (rs : Reg) (sh : ShiftType) (rm : Reg) (s : State) :
    Host.Outcome State Fault Refusal :=
  conditional c s
    (require (shiftRegOk rs) .unpredictableOperands
      (dpArith s sb rd (addWithCarry (s.reg12 rn) (~~~(op2ShiftReg s rs sh rm).value) true)))

/-- RSB, immediate operand 2 (R121, R83). -/
def execRsbImm (c : Cond) (sb : Bool) (rn rd : Reg) (rot : BitVec 4) (imm8 : BitVec 8) (s : State) :
    Host.Outcome State Fault Refusal :=
  conditional c s (dpArith s sb rd (addWithCarry (op2Imm s rot imm8).value (~~~(s.reg rn)) true))

/-- RSB, register shifted by an immediate (R121, R80). -/
def execRsbShiftImm (c : Cond) (sb : Bool) (rn rd : Reg) (amt : BitVec 5) (sh : ShiftType) (rm : Reg) (s : State) :
    Host.Outcome State Fault Refusal :=
  conditional c s (dpArith s sb rd (addWithCarry (op2ShiftImm s amt sh rm).value (~~~(s.reg rn)) true))

/-- RSB, register shifted by a register (R121, R81). -/
def execRsbShiftReg (c : Cond) (sb : Bool) (rn rd : Reg) (rs : Reg) (sh : ShiftType) (rm : Reg) (s : State) :
    Host.Outcome State Fault Refusal :=
  conditional c s
    (require (shiftRegOk rs) .unpredictableOperands
      (dpArith s sb rd (addWithCarry (op2ShiftReg s rs sh rm).value (~~~(s.reg12 rn)) true)))

/-- ADD, immediate operand 2 (R122, R83). -/
def execAddImm (c : Cond) (sb : Bool) (rn rd : Reg) (rot : BitVec 4) (imm8 : BitVec 8) (s : State) :
    Host.Outcome State Fault Refusal :=
  conditional c s (dpArith s sb rd (addWithCarry (s.reg rn) (op2Imm s rot imm8).value false))

/-- ADD, register shifted by an immediate (R122, R80). -/
def execAddShiftImm (c : Cond) (sb : Bool) (rn rd : Reg) (amt : BitVec 5) (sh : ShiftType) (rm : Reg) (s : State) :
    Host.Outcome State Fault Refusal :=
  conditional c s (dpArith s sb rd (addWithCarry (s.reg rn) (op2ShiftImm s amt sh rm).value false))

/-- ADD, register shifted by a register (R122, R81). -/
def execAddShiftReg (c : Cond) (sb : Bool) (rn rd : Reg) (rs : Reg) (sh : ShiftType) (rm : Reg) (s : State) :
    Host.Outcome State Fault Refusal :=
  conditional c s
    (require (shiftRegOk rs) .unpredictableOperands
      (dpArith s sb rd (addWithCarry (s.reg12 rn) (op2ShiftReg s rs sh rm).value false)))

/-- ADC, immediate operand 2 (R123, R83). -/
def execAdcImm (c : Cond) (sb : Bool) (rn rd : Reg) (rot : BitVec 4) (imm8 : BitVec 8) (s : State) :
    Host.Outcome State Fault Refusal :=
  conditional c s (dpArith s sb rd (addWithCarry (s.reg rn) (op2Imm s rot imm8).value (psrC s.cpsr)))

/-- ADC, register shifted by an immediate (R123, R80). -/
def execAdcShiftImm (c : Cond) (sb : Bool) (rn rd : Reg) (amt : BitVec 5) (sh : ShiftType) (rm : Reg) (s : State) :
    Host.Outcome State Fault Refusal :=
  conditional c s (dpArith s sb rd (addWithCarry (s.reg rn) (op2ShiftImm s amt sh rm).value (psrC s.cpsr)))

/-- ADC, register shifted by a register (R123, R81). -/
def execAdcShiftReg (c : Cond) (sb : Bool) (rn rd : Reg) (rs : Reg) (sh : ShiftType) (rm : Reg) (s : State) :
    Host.Outcome State Fault Refusal :=
  conditional c s
    (require (shiftRegOk rs) .unpredictableOperands
      (dpArith s sb rd (addWithCarry (s.reg12 rn) (op2ShiftReg s rs sh rm).value (psrC s.cpsr))))

/-- SBC, immediate operand 2 (R124, R83). -/
def execSbcImm (c : Cond) (sb : Bool) (rn rd : Reg) (rot : BitVec 4) (imm8 : BitVec 8) (s : State) :
    Host.Outcome State Fault Refusal :=
  conditional c s (dpArith s sb rd (addWithCarry (s.reg rn) (~~~(op2Imm s rot imm8).value) (psrC s.cpsr)))

/-- SBC, register shifted by an immediate (R124, R80). -/
def execSbcShiftImm (c : Cond) (sb : Bool) (rn rd : Reg) (amt : BitVec 5) (sh : ShiftType) (rm : Reg) (s : State) :
    Host.Outcome State Fault Refusal :=
  conditional c s (dpArith s sb rd (addWithCarry (s.reg rn) (~~~(op2ShiftImm s amt sh rm).value) (psrC s.cpsr)))

/-- SBC, register shifted by a register (R124, R81). -/
def execSbcShiftReg (c : Cond) (sb : Bool) (rn rd : Reg) (rs : Reg) (sh : ShiftType) (rm : Reg) (s : State) :
    Host.Outcome State Fault Refusal :=
  conditional c s
    (require (shiftRegOk rs) .unpredictableOperands
      (dpArith s sb rd (addWithCarry (s.reg12 rn) (~~~(op2ShiftReg s rs sh rm).value) (psrC s.cpsr))))

/-- RSC, immediate operand 2 (R125, R83). -/
def execRscImm (c : Cond) (sb : Bool) (rn rd : Reg) (rot : BitVec 4) (imm8 : BitVec 8) (s : State) :
    Host.Outcome State Fault Refusal :=
  conditional c s (dpArith s sb rd (addWithCarry (op2Imm s rot imm8).value (~~~(s.reg rn)) (psrC s.cpsr)))

/-- RSC, register shifted by an immediate (R125, R80). -/
def execRscShiftImm (c : Cond) (sb : Bool) (rn rd : Reg) (amt : BitVec 5) (sh : ShiftType) (rm : Reg) (s : State) :
    Host.Outcome State Fault Refusal :=
  conditional c s (dpArith s sb rd (addWithCarry (op2ShiftImm s amt sh rm).value (~~~(s.reg rn)) (psrC s.cpsr)))

/-- RSC, register shifted by a register (R125, R81). -/
def execRscShiftReg (c : Cond) (sb : Bool) (rn rd : Reg) (rs : Reg) (sh : ShiftType) (rm : Reg) (s : State) :
    Host.Outcome State Fault Refusal :=
  conditional c s
    (require (shiftRegOk rs) .unpredictableOperands
      (dpArith s sb rd (addWithCarry (op2ShiftReg s rs sh rm).value (~~~(s.reg12 rn)) (psrC s.cpsr))))

/-- TST, immediate operand 2 (R126, R83). -/
def execTstImm (c : Cond) (rn : Reg) (rot : BitVec 4) (imm8 : BitVec 8) (s : State) :
    Host.Outcome State Fault Refusal :=
  conditional c s (dpTest s ((s.reg rn) &&& (op2Imm s rot imm8).value) (op2Imm s rot imm8).carry)

/-- TST, register shifted by an immediate (R126, R80). -/
def execTstShiftImm (c : Cond) (rn : Reg) (amt : BitVec 5) (sh : ShiftType) (rm : Reg) (s : State) :
    Host.Outcome State Fault Refusal :=
  conditional c s (dpTest s ((s.reg rn) &&& (op2ShiftImm s amt sh rm).value) (op2ShiftImm s amt sh rm).carry)

/-- TST, register shifted by a register (R126, R81). -/
def execTstShiftReg (c : Cond) (rn : Reg) (rs : Reg) (sh : ShiftType) (rm : Reg) (s : State) :
    Host.Outcome State Fault Refusal :=
  conditional c s
    (require (shiftRegOk rs) .unpredictableOperands
      (dpTest s ((s.reg12 rn) &&& (op2ShiftReg s rs sh rm).value) (op2ShiftReg s rs sh rm).carry))

/-- TEQ, immediate operand 2 (R127, R83). -/
def execTeqImm (c : Cond) (rn : Reg) (rot : BitVec 4) (imm8 : BitVec 8) (s : State) :
    Host.Outcome State Fault Refusal :=
  conditional c s (dpTest s ((s.reg rn) ^^^ (op2Imm s rot imm8).value) (op2Imm s rot imm8).carry)

/-- TEQ, register shifted by an immediate (R127, R80). -/
def execTeqShiftImm (c : Cond) (rn : Reg) (amt : BitVec 5) (sh : ShiftType) (rm : Reg) (s : State) :
    Host.Outcome State Fault Refusal :=
  conditional c s (dpTest s ((s.reg rn) ^^^ (op2ShiftImm s amt sh rm).value) (op2ShiftImm s amt sh rm).carry)

/-- TEQ, register shifted by a register (R127, R81). -/
def execTeqShiftReg (c : Cond) (rn : Reg) (rs : Reg) (sh : ShiftType) (rm : Reg) (s : State) :
    Host.Outcome State Fault Refusal :=
  conditional c s
    (require (shiftRegOk rs) .unpredictableOperands
      (dpTest s ((s.reg12 rn) ^^^ (op2ShiftReg s rs sh rm).value) (op2ShiftReg s rs sh rm).carry))

/-- CMP, immediate operand 2 (R128, R83). -/
def execCmpImm (c : Cond) (rn : Reg) (rot : BitVec 4) (imm8 : BitVec 8) (s : State) :
    Host.Outcome State Fault Refusal :=
  conditional c s (dpCompare s (addWithCarry (s.reg rn) (~~~(op2Imm s rot imm8).value) true))

/-- CMP, register shifted by an immediate (R128, R80). -/
def execCmpShiftImm (c : Cond) (rn : Reg) (amt : BitVec 5) (sh : ShiftType) (rm : Reg) (s : State) :
    Host.Outcome State Fault Refusal :=
  conditional c s (dpCompare s (addWithCarry (s.reg rn) (~~~(op2ShiftImm s amt sh rm).value) true))

/-- CMP, register shifted by a register (R128, R81). -/
def execCmpShiftReg (c : Cond) (rn : Reg) (rs : Reg) (sh : ShiftType) (rm : Reg) (s : State) :
    Host.Outcome State Fault Refusal :=
  conditional c s
    (require (shiftRegOk rs) .unpredictableOperands
      (dpCompare s (addWithCarry (s.reg12 rn) (~~~(op2ShiftReg s rs sh rm).value) true)))

/-- CMN, immediate operand 2 (R129, R83). -/
def execCmnImm (c : Cond) (rn : Reg) (rot : BitVec 4) (imm8 : BitVec 8) (s : State) :
    Host.Outcome State Fault Refusal :=
  conditional c s (dpCompare s (addWithCarry (s.reg rn) (op2Imm s rot imm8).value false))

/-- CMN, register shifted by an immediate (R129, R80). -/
def execCmnShiftImm (c : Cond) (rn : Reg) (amt : BitVec 5) (sh : ShiftType) (rm : Reg) (s : State) :
    Host.Outcome State Fault Refusal :=
  conditional c s (dpCompare s (addWithCarry (s.reg rn) (op2ShiftImm s amt sh rm).value false))

/-- CMN, register shifted by a register (R129, R81). -/
def execCmnShiftReg (c : Cond) (rn : Reg) (rs : Reg) (sh : ShiftType) (rm : Reg) (s : State) :
    Host.Outcome State Fault Refusal :=
  conditional c s
    (require (shiftRegOk rs) .unpredictableOperands
      (dpCompare s (addWithCarry (s.reg12 rn) (op2ShiftReg s rs sh rm).value false)))

/-- ORR, immediate operand 2 (R130, R83). -/
def execOrrImm (c : Cond) (sb : Bool) (rn rd : Reg) (rot : BitVec 4) (imm8 : BitVec 8) (s : State) :
    Host.Outcome State Fault Refusal :=
  conditional c s (dpLogical s sb rd ((s.reg rn) ||| (op2Imm s rot imm8).value) (op2Imm s rot imm8).carry)

/-- ORR, register shifted by an immediate (R130, R80). -/
def execOrrShiftImm (c : Cond) (sb : Bool) (rn rd : Reg) (amt : BitVec 5) (sh : ShiftType) (rm : Reg) (s : State) :
    Host.Outcome State Fault Refusal :=
  conditional c s (dpLogical s sb rd ((s.reg rn) ||| (op2ShiftImm s amt sh rm).value) (op2ShiftImm s amt sh rm).carry)

/-- ORR, register shifted by a register (R130, R81). -/
def execOrrShiftReg (c : Cond) (sb : Bool) (rn rd : Reg) (rs : Reg) (sh : ShiftType) (rm : Reg) (s : State) :
    Host.Outcome State Fault Refusal :=
  conditional c s
    (require (shiftRegOk rs) .unpredictableOperands
      (dpLogical s sb rd ((s.reg12 rn) ||| (op2ShiftReg s rs sh rm).value) (op2ShiftReg s rs sh rm).carry))

/-- MOV, immediate operand 2 (R131, R83). -/
def execMovImm (c : Cond) (sb : Bool) (rd : Reg) (rot : BitVec 4) (imm8 : BitVec 8) (s : State) :
    Host.Outcome State Fault Refusal :=
  conditional c s (dpLogical s sb rd (op2Imm s rot imm8).value (op2Imm s rot imm8).carry)

/-- MOV, register shifted by an immediate (R131, R80). -/
def execMovShiftImm (c : Cond) (sb : Bool) (rd : Reg) (amt : BitVec 5) (sh : ShiftType) (rm : Reg) (s : State) :
    Host.Outcome State Fault Refusal :=
  conditional c s (dpLogical s sb rd (op2ShiftImm s amt sh rm).value (op2ShiftImm s amt sh rm).carry)

/-- MOV, register shifted by a register (R131, R81). -/
def execMovShiftReg (c : Cond) (sb : Bool) (rd : Reg) (rs : Reg) (sh : ShiftType) (rm : Reg) (s : State) :
    Host.Outcome State Fault Refusal :=
  conditional c s
    (require (shiftRegOk rs) .unpredictableOperands
      (dpLogical s sb rd (op2ShiftReg s rs sh rm).value (op2ShiftReg s rs sh rm).carry))

/-- BIC, immediate operand 2 (R132, R83). -/
def execBicImm (c : Cond) (sb : Bool) (rn rd : Reg) (rot : BitVec 4) (imm8 : BitVec 8) (s : State) :
    Host.Outcome State Fault Refusal :=
  conditional c s (dpLogical s sb rd ((s.reg rn) &&& ~~~((op2Imm s rot imm8).value)) (op2Imm s rot imm8).carry)

/-- BIC, register shifted by an immediate (R132, R80). -/
def execBicShiftImm (c : Cond) (sb : Bool) (rn rd : Reg) (amt : BitVec 5) (sh : ShiftType) (rm : Reg) (s : State) :
    Host.Outcome State Fault Refusal :=
  conditional c s (dpLogical s sb rd ((s.reg rn) &&& ~~~((op2ShiftImm s amt sh rm).value)) (op2ShiftImm s amt sh rm).carry)

/-- BIC, register shifted by a register (R132, R81). -/
def execBicShiftReg (c : Cond) (sb : Bool) (rn rd : Reg) (rs : Reg) (sh : ShiftType) (rm : Reg) (s : State) :
    Host.Outcome State Fault Refusal :=
  conditional c s
    (require (shiftRegOk rs) .unpredictableOperands
      (dpLogical s sb rd ((s.reg12 rn) &&& ~~~((op2ShiftReg s rs sh rm).value)) (op2ShiftReg s rs sh rm).carry))

/-- MVN, immediate operand 2 (R133, R83). -/
def execMvnImm (c : Cond) (sb : Bool) (rd : Reg) (rot : BitVec 4) (imm8 : BitVec 8) (s : State) :
    Host.Outcome State Fault Refusal :=
  conditional c s (dpLogical s sb rd (~~~(op2Imm s rot imm8).value) (op2Imm s rot imm8).carry)

/-- MVN, register shifted by an immediate (R133, R80). -/
def execMvnShiftImm (c : Cond) (sb : Bool) (rd : Reg) (amt : BitVec 5) (sh : ShiftType) (rm : Reg) (s : State) :
    Host.Outcome State Fault Refusal :=
  conditional c s (dpLogical s sb rd (~~~(op2ShiftImm s amt sh rm).value) (op2ShiftImm s amt sh rm).carry)

/-- MVN, register shifted by a register (R133, R81). -/
def execMvnShiftReg (c : Cond) (sb : Bool) (rd : Reg) (rs : Reg) (sh : ShiftType) (rm : Reg) (s : State) :
    Host.Outcome State Fault Refusal :=
  conditional c s
    (require (shiftRegOk rs) .unpredictableOperands
      (dpLogical s sb rd (~~~(op2ShiftReg s rs sh rm).value) (op2ShiftReg s rs sh rm).carry))

end Sys2Proof.Machine
end

