-- ==== Sys2Proof/Machine/HalfwordTransfer.lean ====
section
/-! DEFINITION. Halfword and signed data transfer (47_halfword_transfer.md). -/

namespace Sys2Proof.Machine

/-- The loads of R213, R215 and R216: `datum` is what the access at the address gives, extended to a word; the base is
written back before Rd is written (R212). -/
def loadExtended (s : State) (p u w : Bool) (rn rd : Reg) (offset : Word) (datum : Word → Attempt Word) :
    Attempt State :=
  (datum (transferAddress s p u rn offset)).andThen fun v =>
    (writeBack s p w rn (transferTarget s u rn offset)).putReg rd v

/-- A halfword, zero-extended (R213). -/
def State.halfUnsigned (s : State) (a : Word) : Attempt Word := (s.loadHalf a).andThen fun h => .ok (h.zeroExtend 32)

/-- A halfword, sign-extended (R216). -/
def State.halfSigned (s : State) (a : Word) : Attempt Word := (s.loadHalf a).andThen fun h => .ok (h.signExtend 32)

/-- A byte, sign-extended (R215). -/
def State.byteSigned (s : State) (a : Word) : Attempt Word := (s.loadByte a).andThen fun b => .ok (b.signExtend 32)

/-- STRH with an offset already formed (R212, R214). -/
def storeHalfword (s : State) (p u w : Bool) (rn rd : Reg) (offset : Word) : Attempt State :=
  (s.storeHalf (transferAddress s p u rn offset) ((s.reg12 rd).extractLsb' 0 16)).andThen fun t =>
    (writeBack t p w rn (transferTarget s u rn offset)).advance

/-- The static refusals of an immediate form (R212, R217). -/
def checkedHalfImm (p w : Bool) (rn rd : Reg) (k : Attempt State) : Attempt State :=
  require (!userTransfer p w) .userTransfer (require (halfImmOk p w rn rd) .unpredictableOperands k)

/-- The static refusals of a register form (R212, R217). -/
def checkedHalfReg (p w : Bool) (rn rd rm : Reg) (k : Attempt State) : Attempt State :=
  require (!userTransfer p w) .userTransfer (require (halfRegOk p w rn rd rm) .unpredictableOperands k)

/-- LDRH, register offset (R213). -/
def execLdrhReg (c : Cond) (p u w : Bool) (rn rd rm : Reg) (s : State) : Host.Outcome State Fault Refusal :=
  conditional c s (checkedHalfReg p w rn rd rm (loadExtended s p u w rn rd (s.reg rm) s.halfUnsigned))

/-- LDRH, immediate offset (R213). -/
def execLdrhImm (c : Cond) (p u w : Bool) (rn rd : Reg) (off : BitVec 8) (s : State) :
    Host.Outcome State Fault Refusal :=
  conditional c s (checkedHalfImm p w rn rd (loadExtended s p u w rn rd (off.zeroExtend 32) s.halfUnsigned))

/-- STRH, register offset (R214). -/
def execStrhReg (c : Cond) (p u w : Bool) (rn rd rm : Reg) (s : State) : Host.Outcome State Fault Refusal :=
  conditional c s (checkedHalfReg p w rn rd rm (storeHalfword s p u w rn rd (s.reg rm)))

/-- STRH, immediate offset (R214). -/
def execStrhImm (c : Cond) (p u w : Bool) (rn rd : Reg) (off : BitVec 8) (s : State) :
    Host.Outcome State Fault Refusal :=
  conditional c s (checkedHalfImm p w rn rd (storeHalfword s p u w rn rd (off.zeroExtend 32)))

/-- LDRSB, register offset (R215). -/
def execLdrsbReg (c : Cond) (p u w : Bool) (rn rd rm : Reg) (s : State) : Host.Outcome State Fault Refusal :=
  conditional c s (checkedHalfReg p w rn rd rm (loadExtended s p u w rn rd (s.reg rm) s.byteSigned))

/-- LDRSB, immediate offset (R215). -/
def execLdrsbImm (c : Cond) (p u w : Bool) (rn rd : Reg) (off : BitVec 8) (s : State) :
    Host.Outcome State Fault Refusal :=
  conditional c s (checkedHalfImm p w rn rd (loadExtended s p u w rn rd (off.zeroExtend 32) s.byteSigned))

/-- LDRSH, register offset (R216). -/
def execLdrshReg (c : Cond) (p u w : Bool) (rn rd rm : Reg) (s : State) : Host.Outcome State Fault Refusal :=
  conditional c s (checkedHalfReg p w rn rd rm (loadExtended s p u w rn rd (s.reg rm) s.halfSigned))

/-- LDRSH, immediate offset (R216). -/
def execLdrshImm (c : Cond) (p u w : Bool) (rn rd : Reg) (off : BitVec 8) (s : State) :
    Host.Outcome State Fault Refusal :=
  conditional c s (checkedHalfImm p w rn rd (loadExtended s p u w rn rd (off.zeroExtend 32) s.halfSigned))

end Sys2Proof.Machine
end

