-- ==== Sys2Proof/Machine/Multiply.lean ====
section
/-! DEFINITION. Multiply and multiply long (45_multiply.md). -/

namespace Sys2Proof.Machine

/-- Rd and, with S, the flags of MUL and MLA (R191 to R193). -/
def finishMul (s : State) (sb : Bool) (rd : Reg) (result : Word) : Attempt State :=
  (if sb then ((s.setReg rd result).setFlags (mulFlags s result)).drew 1 else s.setReg rd result).advance

/-- RdLo, RdHi and, with S, the flags of the long multiplies (R194 to R198). -/
def finishLong (s : State) (sb : Bool) (rdHi rdLo : Reg) (result : BitVec 64) : Attempt State :=
  let t := (s.setReg rdLo (result.extractLsb' 0 32)).setReg rdHi (result.extractLsb' 32 32)
  (if sb then (t.setFlags (longFlags s result)).drew 2 else t).advance

/-- The accumulator RdHi:RdLo (R196, R198). -/
def accumulator (s : State) (rdHi rdLo : Reg) : Nat := (s.reg rdHi).toNat * 4294967296 + (s.reg rdLo).toNat

/-- The unsigned product (R195). -/
def unsignedProduct (s : State) (rs rm : Reg) : Nat := (s.reg rm).toNat * (s.reg rs).toNat

/-- The signed product (R197). -/
def signedProduct (s : State) (rs rm : Reg) : Int := (s.reg rm).toInt * (s.reg rs).toInt

/-- MUL (R192). -/
def execMul (c : Cond) (sb : Bool) (rd rs rm : Reg) (s : State) : Host.Outcome State Fault Refusal :=
  conditional c s
    (require (mulOk rd rs rm) .unpredictableOperands (finishMul s sb rd (s.reg rm * s.reg rs)))

/-- MLA (R193). -/
def execMla (c : Cond) (sb : Bool) (rd rn rs rm : Reg) (s : State) : Host.Outcome State Fault Refusal :=
  conditional c s
    (require (mlaOk rd rn rs rm) .unpredictableOperands (finishMul s sb rd (s.reg rm * s.reg rs + s.reg rn)))

/-- UMULL (R195). -/
def execUmull (c : Cond) (sb : Bool) (rdHi rdLo rs rm : Reg) (s : State) : Host.Outcome State Fault Refusal :=
  conditional c s
    (require (longOk rdHi rdLo rs rm) .unpredictableOperands
      (finishLong s sb rdHi rdLo (BitVec.ofNat 64 (unsignedProduct s rs rm))))

/-- UMLAL (R196). -/
def execUmlal (c : Cond) (sb : Bool) (rdHi rdLo rs rm : Reg) (s : State) : Host.Outcome State Fault Refusal :=
  conditional c s
    (require (longOk rdHi rdLo rs rm) .unpredictableOperands
      (finishLong s sb rdHi rdLo (BitVec.ofNat 64 (unsignedProduct s rs rm + accumulator s rdHi rdLo))))

/-- SMULL (R197). -/
def execSmull (c : Cond) (sb : Bool) (rdHi rdLo rs rm : Reg) (s : State) : Host.Outcome State Fault Refusal :=
  conditional c s
    (require (longOk rdHi rdLo rs rm) .unpredictableOperands
      (finishLong s sb rdHi rdLo (BitVec.ofInt 64 (signedProduct s rs rm))))

/-- SMLAL (R198). -/
def execSmlal (c : Cond) (sb : Bool) (rdHi rdLo rs rm : Reg) (s : State) : Host.Outcome State Fault Refusal :=
  conditional c s
    (require (longOk rdHi rdLo rs rm) .unpredictableOperands
      (finishLong s sb rdHi rdLo (BitVec.ofInt 64 (signedProduct s rs rm + (accumulator s rdHi rdLo : Int)))))

end Sys2Proof.Machine
end

