-- ==== Sys2Proof/Machine/PsrTransfer.lean ====
section
/-! DEFINITION. PSR transfer instructions (42_psr_transfer.md). -/

namespace Sys2Proof.Machine

/-- The bytes that the field mask `f s x c` selects (R142). -/
def fieldMask (fields : BitVec 4) : Word :=
  (if fields.getLsbD 3 then 0xFF000000#32 else 0) ||| (if fields.getLsbD 2 then 0x00FF0000#32 else 0) |||
    (if fields.getLsbD 1 then 0x0000FF00#32 else 0) ||| (if fields.getLsbD 0 then 0x000000FF#32 else 0)

/-- The bits of `old` that `mask` selects replaced by those of `new`. -/
def mergeBits (old new mask : Word) : Word := (old &&& ~~~mask) ||| (new &&& mask)

/-- The byte mask that applies to the CPSR: User mode cannot write the control byte (R142, R261). -/
def cpsrMask (s : State) (fields : BitVec 4) : Word :=
  if psrM s.cpsr = Mode.usr.bits then fieldMask fields &&& 0xFF000000#32 else fieldMask fields

/-- MSR to the CPSR: a change of T and a value of M that is no mode are refused (R142, R33, R34). -/
def writeCpsrFields (s : State) (fields : BitVec 4) (operand : Word) : Attempt State :=
  let mask := cpsrMask s fields
  let t := s.setCpsr (mergeBits s.cpsr operand (mask &&& 0xF00000DF#32))
  if field mask 0 8 = 0#8 then .ok t
  else
    require (psrT operand == psrT s.cpsr) .thumbState
      (require (Mode.ofBits (psrM operand)).isSome .illegalMode (.ok t))

/-- MSR to the SPSR of the current mode (R142). -/
def writeSpsrFields (s : State) (fields : BitVec 4) (operand : Word) : Attempt State :=
  match s.spsrOf s.bank with
  | none => .refused .noSpsr
  | some old => .ok (s.setSpsr s.bank (mergeBits old operand (fieldMask fields &&& psrImplemented)))

/-- MSR (R142): `spsr` chooses the register. -/
def msr (s : State) (spsr : Bool) (fields : BitVec 4) (operand : Word) : Attempt State :=
  (if spsr then writeSpsrFields s fields operand else writeCpsrFields s fields operand).andThen State.advance

/-- The status register MRS reads (R141). -/
def readPsr (s : State) (spsr : Bool) : Attempt Word :=
  if spsr then
    match s.spsrOf s.bank with
    | none => .refused .noSpsr
    | some v => .ok v
  else .ok s.cpsr

/-- MRS (R141). -/
def execMrs (c : Cond) (spsr : Bool) (rd : Reg) (s : State) : Host.Outcome State Fault Refusal :=
  conditional c s
    (require (mrsOk rd) .unpredictableOperands
      ((readPsr s spsr).andThen fun v => (s.setReg rd v).advance))

/-- MSR, register operand (R142). -/
def execMsrReg (c : Cond) (spsr : Bool) (fields : BitVec 4) (rm : Reg) (s : State) :
    Host.Outcome State Fault Refusal :=
  conditional c s (require (msrOk rm) .unpredictableOperands (msr s spsr fields (s.reg rm)))

/-- MSR, immediate operand (R142, R83). -/
def execMsrImm (c : Cond) (spsr : Bool) (fields rot : BitVec 4) (imm8 : BitVec 8) (s : State) :
    Host.Outcome State Fault Refusal :=
  conditional c s (msr s spsr fields (rotatedImm rot imm8))

end Sys2Proof.Machine
end

