-- ==== Sys2Proof/Machine/SingleTransfer.lean ====
section
/-! DEFINITION. Single data transfer (43_single_data_transfer.md). -/

namespace Sys2Proof.Machine

/-- LDR and LDRB with an offset already formed: the base is written back before Rd is written; Rd = R15 jumps (R153,
R156, R158). -/
def loadSingle (s : State) (byte p u w : Bool) (rn rd : Reg) (offset : Word) : Attempt State :=
  (if byte then (s.loadByte (transferAddress s p u rn offset)).andThen fun b => .ok (b.zeroExtend 32)
    else s.loadWord (transferAddress s p u rn offset)).andThen fun v =>
      (writeBack s p w rn (transferTarget s u rn offset)).putReg rd v

/-- STR and STRB with an offset already formed: Rd = R15 stores pc + 12 (R153, R157, R27). -/
def storeSingle (s : State) (byte p u w : Bool) (rn rd : Reg) (offset : Word) : Attempt State :=
  (if byte then s.storeByte (transferAddress s p u rn offset) (field (s.reg12 rd) 0 8)
    else s.storeWord (transferAddress s p u rn offset) (s.reg12 rd)).andThen fun t =>
      (writeBack t p w rn (transferTarget s u rn offset)).advance

/-- The static refusals of an immediate form (R158, R160). -/
def checkedSingleImm (byte p w : Bool) (rn rd : Reg) (k : Attempt State) : Attempt State :=
  require (!userTransfer p w) .userTransfer (require (singleImmOk byte p w rn rd) .unpredictableOperands k)

/-- The static refusals of a register form (R158, R160). -/
def checkedSingleReg (byte p w : Bool) (rn rd rm : Reg) (k : Attempt State) : Attempt State :=
  require (!userTransfer p w) .userTransfer (require (singleRegOk byte p w rn rd rm) .unpredictableOperands k)

/-- LDR, immediate offset (R154). -/
def execLdrImm (c : Cond) (p u w : Bool) (rn rd : Reg) (off : BitVec 12) (s : State) :
    Host.Outcome State Fault Refusal :=
  conditional c s (checkedSingleImm false p w rn rd (loadSingle s false p u w rn rd (off.zeroExtend 32)))

/-- LDR, register offset (R154). -/
def execLdrReg (c : Cond) (p u w : Bool) (rn rd : Reg) (amt : BitVec 5) (sh : ShiftType) (rm : Reg) (s : State) :
    Host.Outcome State Fault Refusal :=
  conditional c s
    (checkedSingleReg false p w rn rd rm (loadSingle s false p u w rn rd (shiftedOffset s amt sh rm)))

/-- STR, immediate offset (R155). -/
def execStrImm (c : Cond) (p u w : Bool) (rn rd : Reg) (off : BitVec 12) (s : State) :
    Host.Outcome State Fault Refusal :=
  conditional c s (checkedSingleImm false p w rn rd (storeSingle s false p u w rn rd (off.zeroExtend 32)))

/-- STR, register offset (R155). -/
def execStrReg (c : Cond) (p u w : Bool) (rn rd : Reg) (amt : BitVec 5) (sh : ShiftType) (rm : Reg) (s : State) :
    Host.Outcome State Fault Refusal :=
  conditional c s
    (checkedSingleReg false p w rn rd rm (storeSingle s false p u w rn rd (shiftedOffset s amt sh rm)))

/-- LDRB, immediate offset (R156). -/
def execLdrbImm (c : Cond) (p u w : Bool) (rn rd : Reg) (off : BitVec 12) (s : State) :
    Host.Outcome State Fault Refusal :=
  conditional c s (checkedSingleImm true p w rn rd (loadSingle s true p u w rn rd (off.zeroExtend 32)))

/-- LDRB, register offset (R156). -/
def execLdrbReg (c : Cond) (p u w : Bool) (rn rd : Reg) (amt : BitVec 5) (sh : ShiftType) (rm : Reg) (s : State) :
    Host.Outcome State Fault Refusal :=
  conditional c s
    (checkedSingleReg true p w rn rd rm (loadSingle s true p u w rn rd (shiftedOffset s amt sh rm)))

/-- STRB, immediate offset (R157). -/
def execStrbImm (c : Cond) (p u w : Bool) (rn rd : Reg) (off : BitVec 12) (s : State) :
    Host.Outcome State Fault Refusal :=
  conditional c s (checkedSingleImm true p w rn rd (storeSingle s true p u w rn rd (off.zeroExtend 32)))

/-- STRB, register offset (R157). -/
def execStrbReg (c : Cond) (p u w : Bool) (rn rd : Reg) (amt : BitVec 5) (sh : ShiftType) (rm : Reg) (s : State) :
    Host.Outcome State Fault Refusal :=
  conditional c s
    (checkedSingleReg true p w rn rd rm (storeSingle s true p u w rn rd (shiftedOffset s amt sh rm)))

end Sys2Proof.Machine
end

