-- ==== Sys2Proof/Machine/Swap.lean ====
section
/-! DEFINITION. Single data swap (46_swap.md). -/

namespace Sys2Proof.Machine

/-- SWP: Rm is read before Rd is written; if the write aborts Rd is not written (R201, D25). A misaligned address, where
it is not refused, is read as LDR reads it and written as STR writes it (R54). -/
def swapWord (s : State) (rn rd rm : Reg) : Attempt State :=
  (s.loadWord (s.reg rn)).andThen fun tmp =>
    (s.storeWord (s.reg rn) (s.reg rm)).andThen fun t => (t.setReg rd tmp).advance

/-- SWPB (R202). -/
def swapByte (s : State) (rn rd rm : Reg) : Attempt State :=
  (s.loadByte (s.reg rn)).andThen fun tmp =>
    (s.storeByte (s.reg rn) (field (s.reg rm) 0 8)).andThen fun t => (t.setReg rd (tmp.zeroExtend 32)).advance

/-- SWP (R201). -/
def execSwp (c : Cond) (rn rd rm : Reg) (s : State) : Host.Outcome State Fault Refusal :=
  conditional c s (require (swapOk rn rd rm) .unpredictableOperands (swapWord s rn rd rm))

/-- SWPB (R202). -/
def execSwpb (c : Cond) (rn rd rm : Reg) (s : State) : Host.Outcome State Fault Refusal :=
  conditional c s (require (swapOk rn rd rm) .unpredictableOperands (swapByte s rn rd rm))

end Sys2Proof.Machine
end

