-- ==== Sys2Proof/Machine/Dispatch.lean ====
section
/-! DEFINITION. The dispatch: one arm per constructor of `Instr`, one meaning per arm. -/

namespace Sys2Proof.Machine

def exec (i : Instr) (s : State) : Host.Outcome State Fault Refusal :=
  match i with
  | .andImm c sb rn rd rot imm8 => Sys2Proof.Machine.execAndImm c sb rn rd rot imm8 s
  | .andShiftImm c sb rn rd amt sh rm => Sys2Proof.Machine.execAndShiftImm c sb rn rd amt sh rm s
  | .andShiftReg c sb rn rd rs sh rm => Sys2Proof.Machine.execAndShiftReg c sb rn rd rs sh rm s
  | .eorImm c sb rn rd rot imm8 => Sys2Proof.Machine.execEorImm c sb rn rd rot imm8 s
  | .eorShiftImm c sb rn rd amt sh rm => Sys2Proof.Machine.execEorShiftImm c sb rn rd amt sh rm s
  | .eorShiftReg c sb rn rd rs sh rm => Sys2Proof.Machine.execEorShiftReg c sb rn rd rs sh rm s
  | .subImm c sb rn rd rot imm8 => Sys2Proof.Machine.execSubImm c sb rn rd rot imm8 s
  | .subShiftImm c sb rn rd amt sh rm => Sys2Proof.Machine.execSubShiftImm c sb rn rd amt sh rm s
  | .subShiftReg c sb rn rd rs sh rm => Sys2Proof.Machine.execSubShiftReg c sb rn rd rs sh rm s
  | .rsbImm c sb rn rd rot imm8 => Sys2Proof.Machine.execRsbImm c sb rn rd rot imm8 s
  | .rsbShiftImm c sb rn rd amt sh rm => Sys2Proof.Machine.execRsbShiftImm c sb rn rd amt sh rm s
  | .rsbShiftReg c sb rn rd rs sh rm => Sys2Proof.Machine.execRsbShiftReg c sb rn rd rs sh rm s
  | .addImm c sb rn rd rot imm8 => Sys2Proof.Machine.execAddImm c sb rn rd rot imm8 s
  | .addShiftImm c sb rn rd amt sh rm => Sys2Proof.Machine.execAddShiftImm c sb rn rd amt sh rm s
  | .addShiftReg c sb rn rd rs sh rm => Sys2Proof.Machine.execAddShiftReg c sb rn rd rs sh rm s
  | .adcImm c sb rn rd rot imm8 => Sys2Proof.Machine.execAdcImm c sb rn rd rot imm8 s
  | .adcShiftImm c sb rn rd amt sh rm => Sys2Proof.Machine.execAdcShiftImm c sb rn rd amt sh rm s
  | .adcShiftReg c sb rn rd rs sh rm => Sys2Proof.Machine.execAdcShiftReg c sb rn rd rs sh rm s
  | .sbcImm c sb rn rd rot imm8 => Sys2Proof.Machine.execSbcImm c sb rn rd rot imm8 s
  | .sbcShiftImm c sb rn rd amt sh rm => Sys2Proof.Machine.execSbcShiftImm c sb rn rd amt sh rm s
  | .sbcShiftReg c sb rn rd rs sh rm => Sys2Proof.Machine.execSbcShiftReg c sb rn rd rs sh rm s
  | .rscImm c sb rn rd rot imm8 => Sys2Proof.Machine.execRscImm c sb rn rd rot imm8 s
  | .rscShiftImm c sb rn rd amt sh rm => Sys2Proof.Machine.execRscShiftImm c sb rn rd amt sh rm s
  | .rscShiftReg c sb rn rd rs sh rm => Sys2Proof.Machine.execRscShiftReg c sb rn rd rs sh rm s
  | .tstImm c rn rot imm8 => Sys2Proof.Machine.execTstImm c rn rot imm8 s
  | .tstShiftImm c rn amt sh rm => Sys2Proof.Machine.execTstShiftImm c rn amt sh rm s
  | .tstShiftReg c rn rs sh rm => Sys2Proof.Machine.execTstShiftReg c rn rs sh rm s
  | .teqImm c rn rot imm8 => Sys2Proof.Machine.execTeqImm c rn rot imm8 s
  | .teqShiftImm c rn amt sh rm => Sys2Proof.Machine.execTeqShiftImm c rn amt sh rm s
  | .teqShiftReg c rn rs sh rm => Sys2Proof.Machine.execTeqShiftReg c rn rs sh rm s
  | .cmpImm c rn rot imm8 => Sys2Proof.Machine.execCmpImm c rn rot imm8 s
  | .cmpShiftImm c rn amt sh rm => Sys2Proof.Machine.execCmpShiftImm c rn amt sh rm s
  | .cmpShiftReg c rn rs sh rm => Sys2Proof.Machine.execCmpShiftReg c rn rs sh rm s
  | .cmnImm c rn rot imm8 => Sys2Proof.Machine.execCmnImm c rn rot imm8 s
  | .cmnShiftImm c rn amt sh rm => Sys2Proof.Machine.execCmnShiftImm c rn amt sh rm s
  | .cmnShiftReg c rn rs sh rm => Sys2Proof.Machine.execCmnShiftReg c rn rs sh rm s
  | .orrImm c sb rn rd rot imm8 => Sys2Proof.Machine.execOrrImm c sb rn rd rot imm8 s
  | .orrShiftImm c sb rn rd amt sh rm => Sys2Proof.Machine.execOrrShiftImm c sb rn rd amt sh rm s
  | .orrShiftReg c sb rn rd rs sh rm => Sys2Proof.Machine.execOrrShiftReg c sb rn rd rs sh rm s
  | .movImm c sb rd rot imm8 => Sys2Proof.Machine.execMovImm c sb rd rot imm8 s
  | .movShiftImm c sb rd amt sh rm => Sys2Proof.Machine.execMovShiftImm c sb rd amt sh rm s
  | .movShiftReg c sb rd rs sh rm => Sys2Proof.Machine.execMovShiftReg c sb rd rs sh rm s
  | .bicImm c sb rn rd rot imm8 => Sys2Proof.Machine.execBicImm c sb rn rd rot imm8 s
  | .bicShiftImm c sb rn rd amt sh rm => Sys2Proof.Machine.execBicShiftImm c sb rn rd amt sh rm s
  | .bicShiftReg c sb rn rd rs sh rm => Sys2Proof.Machine.execBicShiftReg c sb rn rd rs sh rm s
  | .mvnImm c sb rd rot imm8 => Sys2Proof.Machine.execMvnImm c sb rd rot imm8 s
  | .mvnShiftImm c sb rd amt sh rm => Sys2Proof.Machine.execMvnShiftImm c sb rd amt sh rm s
  | .mvnShiftReg c sb rd rs sh rm => Sys2Proof.Machine.execMvnShiftReg c sb rd rs sh rm s
  | .mrs c spsr rd => Sys2Proof.Machine.execMrs c spsr rd s
  | .msrReg c spsr fields rm => Sys2Proof.Machine.execMsrReg c spsr fields rm s
  | .msrImm c spsr fields rot imm8 => Sys2Proof.Machine.execMsrImm c spsr fields rot imm8 s
  | .mul c sb rd rs rm => Sys2Proof.Machine.execMul c sb rd rs rm s
  | .mla c sb rd rn rs rm => Sys2Proof.Machine.execMla c sb rd rn rs rm s
  | .umull c sb rdHi rdLo rs rm => Sys2Proof.Machine.execUmull c sb rdHi rdLo rs rm s
  | .umlal c sb rdHi rdLo rs rm => Sys2Proof.Machine.execUmlal c sb rdHi rdLo rs rm s
  | .smull c sb rdHi rdLo rs rm => Sys2Proof.Machine.execSmull c sb rdHi rdLo rs rm s
  | .smlal c sb rdHi rdLo rs rm => Sys2Proof.Machine.execSmlal c sb rdHi rdLo rs rm s
  | .swp c rn rd rm => Sys2Proof.Machine.execSwp c rn rd rm s
  | .swpb c rn rd rm => Sys2Proof.Machine.execSwpb c rn rd rm s
  | .bx c rn => Sys2Proof.Machine.execBx c rn s
  | .ldrhReg c p u w rn rd rm => Sys2Proof.Machine.execLdrhReg c p u w rn rd rm s
  | .ldrhImm c p u w rn rd off => Sys2Proof.Machine.execLdrhImm c p u w rn rd off s
  | .strhReg c p u w rn rd rm => Sys2Proof.Machine.execStrhReg c p u w rn rd rm s
  | .strhImm c p u w rn rd off => Sys2Proof.Machine.execStrhImm c p u w rn rd off s
  | .ldrsbReg c p u w rn rd rm => Sys2Proof.Machine.execLdrsbReg c p u w rn rd rm s
  | .ldrsbImm c p u w rn rd off => Sys2Proof.Machine.execLdrsbImm c p u w rn rd off s
  | .ldrshReg c p u w rn rd rm => Sys2Proof.Machine.execLdrshReg c p u w rn rd rm s
  | .ldrshImm c p u w rn rd off => Sys2Proof.Machine.execLdrshImm c p u w rn rd off s
  | .ldrImm c p u w rn rd off => Sys2Proof.Machine.execLdrImm c p u w rn rd off s
  | .ldrReg c p u w rn rd amt sh rm => Sys2Proof.Machine.execLdrReg c p u w rn rd amt sh rm s
  | .strImm c p u w rn rd off => Sys2Proof.Machine.execStrImm c p u w rn rd off s
  | .strReg c p u w rn rd amt sh rm => Sys2Proof.Machine.execStrReg c p u w rn rd amt sh rm s
  | .ldrbImm c p u w rn rd off => Sys2Proof.Machine.execLdrbImm c p u w rn rd off s
  | .ldrbReg c p u w rn rd amt sh rm => Sys2Proof.Machine.execLdrbReg c p u w rn rd amt sh rm s
  | .strbImm c p u w rn rd off => Sys2Proof.Machine.execStrbImm c p u w rn rd off s
  | .strbReg c p u w rn rd amt sh rm => Sys2Proof.Machine.execStrbReg c p u w rn rd amt sh rm s
  | .ldmia c sb w rn list => Sys2Proof.Machine.execLdmia c sb w rn list s
  | .ldmib c sb w rn list => Sys2Proof.Machine.execLdmib c sb w rn list s
  | .ldmda c sb w rn list => Sys2Proof.Machine.execLdmda c sb w rn list s
  | .ldmdb c sb w rn list => Sys2Proof.Machine.execLdmdb c sb w rn list s
  | .stmia c sb w rn list => Sys2Proof.Machine.execStmia c sb w rn list s
  | .stmib c sb w rn list => Sys2Proof.Machine.execStmib c sb w rn list s
  | .stmda c sb w rn list => Sys2Proof.Machine.execStmda c sb w rn list s
  | .stmdb c sb w rn list => Sys2Proof.Machine.execStmdb c sb w rn list s
  | .b c off => Sys2Proof.Machine.execB c off s
  | .bl c off => Sys2Proof.Machine.execBl c off s
  | .ldc c _ _ _ _ _ _ _ _ => Sys2Proof.Machine.execLdc c s
  | .stc c _ _ _ _ _ _ _ _ => Sys2Proof.Machine.execStc c s
  | .cdp c _ _ _ _ _ _ => Sys2Proof.Machine.execCdp c s
  | .mrc c _ _ _ _ _ _ => Sys2Proof.Machine.execMrc c s
  | .mcr c _ _ _ _ _ _ => Sys2Proof.Machine.execMcr c s
  | .swi c _ => Sys2Proof.Machine.execSwi c s
  | .undefined c _ _ => Sys2Proof.Machine.execUndefined c s

end Sys2Proof.Machine
end

