-- ==== Sys2Proof/Machine/Run.lean ====
section
/-! DEFINITION. Running the fetched word (60_exceptions.md R259). -/

namespace Sys2Proof.Machine

/-- A tier 2 instruction whose condition passes is refused under TIER2 = refuse (R7, D2; log 1). -/
def tierRefused (i : Instr) (s : State) : Bool :=
  decide (s.platform.tier2 = .refuse) && i.isTier2 && condPassed i.cond s.cpsr

/-- A word of no row: nothing where its condition fails, else by RESERVED_WORD (R75, R90 (c), R245, R259). That under
undefined-trap it traps whatever TIER2 is, though TIER2 = refuse refuses the UNDEFINED words it is treated like (R7, D2),
is the model's choice (DESIGN CHOICE, log 34). -/
def runReserved (c : Cond) (s : State) : Host.Outcome State Fault Refusal :=
  conditional c s
    (match s.platform.reserved with
      | .refuse => .refused .reservedWord
      | .undefinedTrap => .ok (s.enter .undefined))

/-- The word at the pc decoded and run (R76, R259). -/
def runWord (w : Word) (s : State) : Host.Outcome State Fault Refusal :=
  match decode w with
  | .ok i => if tierRefused i s then .refused .tier2NotAdmitted else exec i s
  | .reserved c => runReserved c s
  | .neverCondition => .refused .neverCondition
  | .notOneWord => .refused .reservedWord

/-- One step before the environment moves on, in the order of R259: the end of the run, a reset, FIQ, IRQ, the fetch with
its abort, the instruction, with the two words after it fetched (R27). -/
def stepCore (s : State) : Host.Outcome State Fault Refusal :=
  if s.ended then .fault .endOfRun
  else if s.lines.reset then .next s.takeReset
  else
    match s.interrupt with
    | some e => .next (s.enter e)
    | none =>
      match s.fetch with
      | .abort => .next (s.enter .prefetchAbort)
      | .unmapped => .fault .unmapped
      | .word w => runWord w s.fetchAhead

end Sys2Proof.Machine
end

