-- ==== Sys2Proof/Machine/Step.lean ====
section
/-! DEFINITION. One step of the machine (60_exceptions.md R259), and the placing of one instruction where it fetches. -/

namespace Sys2Proof.Machine

/-- One step (R259), after which the environment drives the next boundary's levels (log 12). -/
def step (s : State) : Host.Outcome State Fault Refusal := tickOutcome (stepCore s)

/-- `s` with the instruction whose bits are `w` stored at the pc, where the next step fetches (R51, R259; log 22). -/
def State.withFetchWord (s : State) (nbits w : Nat) : State := s.placeWord (BitVec.ofNat 32 (w % 2 ^ nbits))

end Sys2Proof.Machine
end

