-- ==== Sys2Proof/Safety.lean ====
section
/-! DEFINITION. The terms the statements are written in: the invariant of the machine, what a step leaves alone, the
accesses the platform lets through, an exception entered, and the instructions grouped by shape. Nothing here is used by
the machine. -/

namespace Sys2Proof.Machine

/-! ## The invariant -/

/-- The reserved bits 27:8 of a status register are 0 (R35). -/
def psrClean (p : Word) : Bool := decide (field p 8 20 = 0#20)

/-- What holds of every state a run reaches: memory canonical, the pc a multiple of 4 (R28), T = 0 (R33), M a mode (R34),
reserved bits 0 in the CPSR and the five SPSRs (R35, R36). -/
def State.inv (s : State) : Bool :=
  s.mem.wf && wordAligned s.pc && !psrT s.cpsr && (Mode.ofBits (psrM s.cpsr)).isSome && psrClean s.cpsr &&
    psrClean s.spsrFiq && psrClean s.spsrSvc && psrClean s.spsrAbt && psrClean s.spsrIrq && psrClean s.spsrUnd

/-! ## When an instruction has its effect -/

/-- The condition of the instruction passes (R75) and the spec refuses none of its operand combinations (D16, D23,
D24). -/
def runs (i : Instr) (s : State) : Bool := condPassed i.cond s.cpsr && i.wellFormed

/-- There is a next instruction to fall through to (R28, D21). -/
def fallsThrough (s : State) : Bool := s.pc != 0xFFFFFFFC#32

/-- A read of `n` bytes at `a` is neither aborted nor outside MemMap (R61). -/
def readable (s : State) (a : Word) (n : Nat) : Bool := !s.platform.abortsAt .read a n && s.platform.mapped a n

/-- A write of `n` bytes at `a` is neither aborted nor outside MemMap nor a store into Text (R61, R63). -/
def writable (s : State) (a : Word) (n : Nat) : Bool :=
  !s.platform.abortsAt .write a n && s.platform.mapped a n && !s.platform.inText a n

/-- A word access at `a` is not refused for its alignment (R53, R54). -/
def wordAccessOk (s : State) (a : Word) : Bool := wordAligned a || decide (s.platform.misaligned = .rotate)

/-- The mode has an SPSR: it is not User or System mode (R36). -/
def hasSpsr (s : State) : Bool := decide (s.bank ≠ .usr)

/-! ## What stays -/

/-- Every banked register but those listed is as before. -/
def OnlyRegs (s t : State) (ps : List PhysReg) : Prop := ∀ p, p ∉ ps → t.phys p = s.phys p

/-- Every byte of memory reads as before. -/
def SameBytes (s t : State) : Prop := ∀ b, t.mem.read b = s.mem.read b

/-- Every byte of memory but the `n` from `a` on reads as before. -/
def OnlyBytes (s t : State) (a : Word) (n : Nat) : Prop := ∀ b, b ∉ addrBytes a n → t.mem.read b = s.mem.read b

/-- The five SPSRs are as before. -/
def SameSpsrs (s t : State) : Prop := ∀ b, t.spsrOf b = s.spsrOf b

/-- What the environment drives and the parameters are as before. -/
def SameSurroundings (s t : State) : Prop :=
  t.lines = s.lines ∧ t.upcoming = s.upcoming ∧ t.platform = s.platform

/-- Of the state outside memory, the CPSR and the pc, only the listed registers change. -/
def Frame (s t : State) (ps : List PhysReg) : Prop :=
  OnlyRegs s t ps ∧ SameSpsrs s t ∧ SameSurroundings s t ∧ t.draws = s.draws

/-- The flags are `f` and every other bit of the CPSR is as before. -/
def FlagsBecome (s t : State) (f : Nzcv) : Prop :=
  psrFlags t.cpsr = f ∧ field t.cpsr 0 28 = field s.cpsr 0 28

/-- The pc goes on to the next word, and the words fetched ahead are kept (R27). -/
def Advances (s t : State) : Prop := t.pc = s.pc + 4 ∧ t.prefetched = s.prefetched

/-- A control transfer to an address: what was fetched ahead is dropped (R28). -/
def JumpsTo (t : State) (a : Word) : Prop := t.pc = a ∧ t.prefetched = none

/-- The next state of an instruction that falls through and touches neither memory nor the CPSR. -/
def Plain (s t : State) (ps : List PhysReg) : Prop :=
  Advances s t ∧ t.cpsr = s.cpsr ∧ Frame s t ps ∧ SameBytes s t

/-! ## An exception entered (R243, R253) -/

/-- `t` is `s` after the entry of an exception into the mode of `bank` with the given link and vector, memory left
open. -/
def EnteredBesideMemory (s t : State) (bank : Bank) (mode : BitVec 5) (link vector : Word) (masksFiq : Bool) : Prop :=
  t.phys (physReg bank 14#4) = link ∧ t.spsrOf bank = some s.cpsr ∧ JumpsTo t vector ∧
  psrM t.cpsr = mode ∧ psrT t.cpsr = false ∧ psrI t.cpsr = true ∧ psrF t.cpsr = (masksFiq || psrF s.cpsr) ∧
  field t.cpsr 8 24 = field s.cpsr 8 24 ∧
  OnlyRegs s t [physReg bank 14#4] ∧ (∀ b, b ≠ bank → t.spsrOf b = s.spsrOf b) ∧
  SameSurroundings s t ∧ t.draws = s.draws

/-- `t` is `s` after the entry of an exception, no byte of memory changed. -/
def Entered (s t : State) (bank : Bank) (mode : BitVec 5) (link vector : Word) (masksFiq : Bool) : Prop :=
  EnteredBesideMemory s t bank mode link vector masksFiq ∧ SameBytes s t

/-- The Data Abort exception entered at the instruction that is aborted (R247, R253). -/
def DataAborted (s t : State) : Prop := Entered s t .abt 0b10111#5 (s.pc + 8) 0x00000010#32 false

/-- The instruction run in `t` goes to `target` with the CPSR of `s` restored, and changes nothing else (R255). -/
def ReturnsTo (s t : State) (i : Instr) (target : Word) : Prop :=
  ∃ u, exec i t = .next u ∧ u.cpsr = s.cpsr ∧ JumpsTo u target ∧ Frame t u [] ∧ SameBytes t u

/-- `MOVS pc, r14` (R253). -/
def movsPcR14 : Instr := .movShiftImm .al true 15#4 0#5 .lsl 14#4

/-- `SUBS pc, r14, #imm8` (R253). -/
def subsPcR14 (imm8 : BitVec 8) : Instr := .subImm .al true 14#4 15#4 0#4 imm8

/-! ## Data processing by shape (R110, R117) -/

/-- The three forms of operand 2. -/
inductive Op2 where
  | imm (rot : BitVec 4) (imm8 : BitVec 8)
  | shiftImm (amt : BitVec 5) (sh : ShiftType) (rm : Reg)
  | shiftReg (rs : Reg) (sh : ShiftType) (rm : Reg)
deriving DecidableEq, Repr

/-- Operand 2 and the shifter carry-out. -/
def Op2.out (x : Op2) (s : State) : ShifterOut :=
  match x with
  | .imm rot imm8 => op2Imm s rot imm8
  | .shiftImm amt sh rm => op2ShiftImm s amt sh rm
  | .shiftReg rs sh rm => op2ShiftReg s rs sh rm

/-- What R15 reads as beside this form (R27). -/
def Op2.ahead (x : Op2) : Word :=
  match x with
  | .imm _ _ => 8
  | .shiftImm _ _ _ => 8
  | .shiftReg _ _ _ => 12

/-- Operand 1: Rn, with R15 as the form reads it (R27). -/
def Op2.first (x : Op2) (s : State) (rn : Reg) : Word :=
  if rn = 15#4 then s.pc + x.ahead else s.phys (physReg s.bank rn)

/-- The twelve operations that write Rd. -/
inductive DpOp where
  | and | eor | sub | rsb | add | adc | sbc | rsc | orr | mov | bic | mvn
deriving DecidableEq, Repr

/-- The instruction of an operation and a form; MOV and MVN have no Rn. -/
def DpOp.instr (op : DpOp) (c : Cond) (sb : Bool) (rn rd : Reg) (x : Op2) : Instr :=
  match op, x with
  | .and, .imm rot imm8 => .andImm c sb rn rd rot imm8
  | .and, .shiftImm amt sh rm => .andShiftImm c sb rn rd amt sh rm
  | .and, .shiftReg rs sh rm => .andShiftReg c sb rn rd rs sh rm
  | .eor, .imm rot imm8 => .eorImm c sb rn rd rot imm8
  | .eor, .shiftImm amt sh rm => .eorShiftImm c sb rn rd amt sh rm
  | .eor, .shiftReg rs sh rm => .eorShiftReg c sb rn rd rs sh rm
  | .sub, .imm rot imm8 => .subImm c sb rn rd rot imm8
  | .sub, .shiftImm amt sh rm => .subShiftImm c sb rn rd amt sh rm
  | .sub, .shiftReg rs sh rm => .subShiftReg c sb rn rd rs sh rm
  | .rsb, .imm rot imm8 => .rsbImm c sb rn rd rot imm8
  | .rsb, .shiftImm amt sh rm => .rsbShiftImm c sb rn rd amt sh rm
  | .rsb, .shiftReg rs sh rm => .rsbShiftReg c sb rn rd rs sh rm
  | .add, .imm rot imm8 => .addImm c sb rn rd rot imm8
  | .add, .shiftImm amt sh rm => .addShiftImm c sb rn rd amt sh rm
  | .add, .shiftReg rs sh rm => .addShiftReg c sb rn rd rs sh rm
  | .adc, .imm rot imm8 => .adcImm c sb rn rd rot imm8
  | .adc, .shiftImm amt sh rm => .adcShiftImm c sb rn rd amt sh rm
  | .adc, .shiftReg rs sh rm => .adcShiftReg c sb rn rd rs sh rm
  | .sbc, .imm rot imm8 => .sbcImm c sb rn rd rot imm8
  | .sbc, .shiftImm amt sh rm => .sbcShiftImm c sb rn rd amt sh rm
  | .sbc, .shiftReg rs sh rm => .sbcShiftReg c sb rn rd rs sh rm
  | .rsc, .imm rot imm8 => .rscImm c sb rn rd rot imm8
  | .rsc, .shiftImm amt sh rm => .rscShiftImm c sb rn rd amt sh rm
  | .rsc, .shiftReg rs sh rm => .rscShiftReg c sb rn rd rs sh rm
  | .orr, .imm rot imm8 => .orrImm c sb rn rd rot imm8
  | .orr, .shiftImm amt sh rm => .orrShiftImm c sb rn rd amt sh rm
  | .orr, .shiftReg rs sh rm => .orrShiftReg c sb rn rd rs sh rm
  | .mov, .imm rot imm8 => .movImm c sb rd rot imm8
  | .mov, .shiftImm amt sh rm => .movShiftImm c sb rd amt sh rm
  | .mov, .shiftReg rs sh rm => .movShiftReg c sb rd rs sh rm
  | .bic, .imm rot imm8 => .bicImm c sb rn rd rot imm8
  | .bic, .shiftImm amt sh rm => .bicShiftImm c sb rn rd amt sh rm
  | .bic, .shiftReg rs sh rm => .bicShiftReg c sb rn rd rs sh rm
  | .mvn, .imm rot imm8 => .mvnImm c sb rd rot imm8
  | .mvn, .shiftImm amt sh rm => .mvnShiftImm c sb rd amt sh rm
  | .mvn, .shiftReg rs sh rm => .mvnShiftReg c sb rd rs sh rm

/-- The four operations that write the flags alone. -/
inductive TestOp where
  | tst | teq | cmp | cmn
deriving DecidableEq, Repr

/-- The instruction of a test and a form. -/
def TestOp.instr (op : TestOp) (c : Cond) (rn : Reg) (x : Op2) : Instr :=
  match op, x with
  | .tst, .imm rot imm8 => .tstImm c rn rot imm8
  | .tst, .shiftImm amt sh rm => .tstShiftImm c rn amt sh rm
  | .tst, .shiftReg rs sh rm => .tstShiftReg c rn rs sh rm
  | .teq, .imm rot imm8 => .teqImm c rn rot imm8
  | .teq, .shiftImm amt sh rm => .teqShiftImm c rn amt sh rm
  | .teq, .shiftReg rs sh rm => .teqShiftReg c rn rs sh rm
  | .cmp, .imm rot imm8 => .cmpImm c rn rot imm8
  | .cmp, .shiftImm amt sh rm => .cmpShiftImm c rn amt sh rm
  | .cmp, .shiftReg rs sh rm => .cmpShiftReg c rn rs sh rm
  | .cmn, .imm rot imm8 => .cmnImm c rn rot imm8
  | .cmn, .shiftImm amt sh rm => .cmnShiftImm c rn amt sh rm
  | .cmn, .shiftReg rs sh rm => .cmnShiftReg c rn rs sh rm

/-- The operations of the logical class (R111). -/
def DpOp.logical (op : DpOp) : Bool :=
  match op with
  | .and => true | .eor => true | .orr => true | .mov => true | .bic => true | .mvn => true
  | .sub => false | .rsb => false | .add => false | .adc => false | .sbc => false | .rsc => false

/-- The result in Rd from operand 1, operand 2 and the C flag, Table 2-4 (R110). -/
def DpOp.result (op : DpOp) (a b : Word) (cin : Bool) : Word :=
  match op with
  | .and => a &&& b
  | .eor => a ^^^ b
  | .orr => a ||| b
  | .bic => a &&& ~~~b
  | .mov => b
  | .mvn => ~~~b
  | .add => a + b
  | .adc => a + b + (if cin then 1 else 0)
  | .sub => a - b
  | .sbc => a - b - (if cin then 0 else 1)
  | .rsb => b - a
  | .rsc => b - a - (if cin then 0 else 1)

/-- The exact value of an arithmetic operation on integers; 0 for the logical class, which has none. -/
def DpOp.exact (op : DpOp) (a b : Int) (cin : Bool) : Int :=
  match op with
  | .add => a + b
  | .adc => a + b + (if cin then 1 else 0)
  | .sub => a - b
  | .sbc => a - b - (if cin then 0 else 1)
  | .rsb => b - a
  | .rsc => b - a - (if cin then 0 else 1)
  | .and => 0 | .eor => 0 | .orr => 0 | .bic => 0 | .mov => 0 | .mvn => 0

/-- The operation adds, so that C is a carry; the others subtract, and C is the absence of a borrow. -/
def DpOp.adds (op : DpOp) : Bool :=
  match op with
  | .add => true | .adc => true
  | .sub => false | .sbc => false | .rsb => false | .rsc => false
  | .and => false | .eor => false | .orr => false | .bic => false | .mov => false | .mvn => false

/-- C of the arithmetic class: the exact unsigned sum reaches 2^32, or the exact unsigned difference is not negative. -/
def DpOp.carry (op : DpOp) (a b : Word) (cin : Bool) : Bool :=
  if op.adds then decide (4294967296 ≤ op.exact a.toNat b.toNat cin) else decide (0 ≤ op.exact a.toNat b.toNat cin)

/-- V of the arithmetic class: the exact signed value is not a signed word. -/
def DpOp.overflow (op : DpOp) (a b : Word) (cin : Bool) : Bool :=
  decide (op.exact a.toInt b.toInt cin < -2147483648 ∨ 2147483647 < op.exact a.toInt b.toInt cin)

/-- The flags of the logical class (R111). -/
def logicalNzcv (s : State) (result : Word) (carry : Bool) : Nzcv :=
  ⟨decide (2147483648 ≤ result.toNat), decide (result = 0#32), carry, psrV s.cpsr⟩

/-- The flags of the arithmetic class (R112). -/
def arithNzcv (op : DpOp) (a b : Word) (cin : Bool) : Nzcv :=
  ⟨decide (2147483648 ≤ (op.result a b cin).toNat), decide (op.result a b cin = 0#32), op.carry a b cin,
    op.overflow a b cin⟩

/-! ## PSR transfer by shape (R142) -/

/-- The two forms of the operand of MSR. -/
inductive MsrOperand where
  | reg (rm : Reg)
  | imm (rot : BitVec 4) (imm8 : BitVec 8)
deriving DecidableEq, Repr

/-- The operand. -/
def MsrOperand.value (x : MsrOperand) (s : State) : Word :=
  match x with
  | .reg rm => s.phys (physReg s.bank rm)
  | .imm rot imm8 => rotatedImm rot imm8

/-- MSR. -/
def MsrOperand.instr (x : MsrOperand) (c : Cond) (spsr : Bool) (fields : BitVec 4) : Instr :=
  match x with
  | .reg rm => .msrReg c spsr fields rm
  | .imm rot imm8 => .msrImm c spsr fields rot imm8

/-! ## Multiply by shape (R190 to R198) -/

/-- The 64-bit value of a register pair. -/
def pairOf (s : State) (b : Bank) (hi lo : Reg) : Nat :=
  (s.phys (physReg b hi)).toNat * 4294967296 + (s.phys (physReg b lo)).toNat

/-- What a multiply does beside its result: the pc advances, with S N says whether the result's top bit is set and Z
whether it is 0, without S the CPSR is as before, and nothing else changes. C, and V of the long forms, are free values
with S (R191, R194; log 15), so nothing is said of them, nor of the count of the values drawn. -/
def MultiplyFrame (s t : State) (sb : Bool) (result topBit : Nat) (ps : List PhysReg) : Prop :=
  Advances s t ∧
  (sb = true → psrN t.cpsr = decide (topBit ≤ result) ∧ psrZ t.cpsr = decide (result = 0)) ∧
  (sb = false → t.cpsr = s.cpsr ∧ t.draws = s.draws) ∧
  field t.cpsr 0 28 = field s.cpsr 0 28 ∧ OnlyRegs s t ps ∧ SameSpsrs s t ∧ SameSurroundings s t ∧ SameBytes s t

/-! ## Transfers by shape (R150, R151, R210, R211) -/

/-- The two forms of the offset of LDR, STR, LDRB and STRB. -/
inductive WordOffset where
  | imm (off : BitVec 12)
  | reg (amt : BitVec 5) (sh : ShiftType) (rm : Reg)
deriving DecidableEq, Repr

/-- The offset. -/
def WordOffset.value (x : WordOffset) (s : State) : Word :=
  match x with
  | .imm off => off.zeroExtend 32
  | .reg amt sh rm => shiftedOffset s amt sh rm

/-- LDR. -/
def WordOffset.ldr (x : WordOffset) (c : Cond) (p u w : Bool) (rn rd : Reg) : Instr :=
  match x with
  | .imm off => .ldrImm c p u w rn rd off
  | .reg amt sh rm => .ldrReg c p u w rn rd amt sh rm

/-- STR. -/
def WordOffset.str (x : WordOffset) (c : Cond) (p u w : Bool) (rn rd : Reg) : Instr :=
  match x with
  | .imm off => .strImm c p u w rn rd off
  | .reg amt sh rm => .strReg c p u w rn rd amt sh rm

/-- LDRB. -/
def WordOffset.ldrb (x : WordOffset) (c : Cond) (p u w : Bool) (rn rd : Reg) : Instr :=
  match x with
  | .imm off => .ldrbImm c p u w rn rd off
  | .reg amt sh rm => .ldrbReg c p u w rn rd amt sh rm

/-- STRB. -/
def WordOffset.strb (x : WordOffset) (c : Cond) (p u w : Bool) (rn rd : Reg) : Instr :=
  match x with
  | .imm off => .strbImm c p u w rn rd off
  | .reg amt sh rm => .strbReg c p u w rn rd amt sh rm

/-- The two forms of the offset of the halfword and signed transfers. -/
inductive HalfOffset where
  | imm (off : BitVec 8)
  | reg (rm : Reg)
deriving DecidableEq, Repr

/-- The offset. -/
def HalfOffset.value (x : HalfOffset) (s : State) : Word :=
  match x with
  | .imm off => off.zeroExtend 32
  | .reg rm => s.reg rm

/-- LDRH. -/
def HalfOffset.ldrh (x : HalfOffset) (c : Cond) (p u w : Bool) (rn rd : Reg) : Instr :=
  match x with
  | .imm off => .ldrhImm c p u w rn rd off
  | .reg rm => .ldrhReg c p u w rn rd rm

/-- STRH. -/
def HalfOffset.strh (x : HalfOffset) (c : Cond) (p u w : Bool) (rn rd : Reg) : Instr :=
  match x with
  | .imm off => .strhImm c p u w rn rd off
  | .reg rm => .strhReg c p u w rn rd rm

/-- LDRSB. -/
def HalfOffset.ldrsb (x : HalfOffset) (c : Cond) (p u w : Bool) (rn rd : Reg) : Instr :=
  match x with
  | .imm off => .ldrsbImm c p u w rn rd off
  | .reg rm => .ldrsbReg c p u w rn rd rm

/-- LDRSH. -/
def HalfOffset.ldrsh (x : HalfOffset) (c : Cond) (p u w : Bool) (rn rd : Reg) : Instr :=
  match x with
  | .imm off => .ldrshImm c p u w rn rd off
  | .reg rm => .ldrshReg c p u w rn rd rm

/-- The base register moves: post-indexed, or W = 1 (R152, R212). -/
def movesBase (p w : Bool) : Bool := !p || w

/-- The base register, where it moves. -/
def baseMoved (s : State) (p w : Bool) (rn : Reg) : List PhysReg :=
  if movesBase p w then [physReg s.bank rn] else []

/-- The base register after the transfer: moved to the base plus or minus the offset, or as before (R153, R212). -/
def BaseAfter (s t : State) (p u w : Bool) (rn : Reg) (offset : Word) : Prop :=
  movesBase p w = true → t.phys (physReg s.bank rn) = transferTarget s u rn offset

/-- The word LDR and SWP read at an address: the aligned word rotated right by 8 times the low two bits (R54). -/
def loadedWord (s : State) (a : Word) : Word :=
  (s.mem.word s.platform.bigEndian (alignDown a)).rotateRight (8 * (a.toNat % 4))

/-! ## Every instruction with one address by shape (R57) -/

/-- The instructions that access one address. -/
inductive AccessForm where
  | ldr (x : WordOffset) (p u w : Bool) (rn rd : Reg)
  | str (x : WordOffset) (p u w : Bool) (rn rd : Reg)
  | ldrb (x : WordOffset) (p u w : Bool) (rn rd : Reg)
  | strb (x : WordOffset) (p u w : Bool) (rn rd : Reg)
  | ldrh (x : HalfOffset) (p u w : Bool) (rn rd : Reg)
  | ldrsh (x : HalfOffset) (p u w : Bool) (rn rd : Reg)
  | ldrsb (x : HalfOffset) (p u w : Bool) (rn rd : Reg)
  | strh (x : HalfOffset) (p u w : Bool) (rn rd : Reg)
  | swp (rn rd rm : Reg)
  | swpb (rn rd rm : Reg)
deriving DecidableEq, Repr

/-- The instruction. -/
def AccessForm.instr (f : AccessForm) (c : Cond) : Instr :=
  match f with
  | .ldr x p u w rn rd => x.ldr c p u w rn rd
  | .str x p u w rn rd => x.str c p u w rn rd
  | .ldrb x p u w rn rd => x.ldrb c p u w rn rd
  | .strb x p u w rn rd => x.strb c p u w rn rd
  | .ldrh x p u w rn rd => x.ldrh c p u w rn rd
  | .ldrsh x p u w rn rd => x.ldrsh c p u w rn rd
  | .ldrsb x p u w rn rd => x.ldrsb c p u w rn rd
  | .strh x p u w rn rd => x.strh c p u w rn rd
  | .swp rn rd rm => .swp c rn rd rm
  | .swpb rn rd rm => .swpb c rn rd rm

/-- The address the instruction forms. -/
def AccessForm.address (f : AccessForm) (s : State) : Word :=
  match f with
  | .ldr x p u _ rn _ => transferAddress s p u rn (x.value s)
  | .str x p u _ rn _ => transferAddress s p u rn (x.value s)
  | .ldrb x p u _ rn _ => transferAddress s p u rn (x.value s)
  | .strb x p u _ rn _ => transferAddress s p u rn (x.value s)
  | .ldrh x p u _ rn _ => transferAddress s p u rn (x.value s)
  | .ldrsh x p u _ rn _ => transferAddress s p u rn (x.value s)
  | .ldrsb x p u _ rn _ => transferAddress s p u rn (x.value s)
  | .strh x p u _ rn _ => transferAddress s p u rn (x.value s)
  | .swp rn _ _ => s.phys (physReg s.bank rn)
  | .swpb rn _ _ => s.phys (physReg s.bank rn)

/-- The width of the access in bytes (R57). -/
def AccessForm.width (f : AccessForm) : Nat :=
  match f with
  | .ldr _ _ _ _ _ _ => 4 | .str _ _ _ _ _ _ => 4 | .swp _ _ _ => 4
  | .ldrh _ _ _ _ _ _ => 2 | .ldrsh _ _ _ _ _ _ => 2 | .strh _ _ _ _ _ _ => 2
  | .ldrb _ _ _ _ _ _ => 1 | .strb _ _ _ _ _ _ => 1 | .ldrsb _ _ _ _ _ _ => 1 | .swpb _ _ _ => 1

/-- The instruction reads memory; a swap reads first and then writes (R200). -/
def AccessForm.reads (f : AccessForm) : Bool :=
  match f with
  | .str _ _ _ _ _ _ => false | .strb _ _ _ _ _ _ => false | .strh _ _ _ _ _ _ => false
  | .ldr _ _ _ _ _ _ => true | .ldrb _ _ _ _ _ _ => true | .ldrh _ _ _ _ _ _ => true
  | .ldrsh _ _ _ _ _ _ => true | .ldrsb _ _ _ _ _ _ => true | .swp _ _ _ => true | .swpb _ _ _ => true

/-- The instruction writes memory. -/
def AccessForm.writes (f : AccessForm) : Bool :=
  match f with
  | .str _ _ _ _ _ _ => true | .strb _ _ _ _ _ _ => true | .strh _ _ _ _ _ _ => true
  | .swp _ _ _ => true | .swpb _ _ _ => true
  | .ldr _ _ _ _ _ _ => false | .ldrb _ _ _ _ _ _ => false | .ldrh _ _ _ _ _ _ => false
  | .ldrsh _ _ _ _ _ _ => false | .ldrsb _ _ _ _ _ _ => false

/-- The address the memory sees: for a word the aligned one (R54). -/
def AccessForm.seen (f : AccessForm) (s : State) : Word :=
  if f.width = 4 then alignDown (f.address s) else f.address s

/-- The access is not refused for its alignment (R53 to R55). -/
def AccessForm.alignedOk (f : AccessForm) (s : State) : Bool :=
  if f.width = 4 then wordAccessOk s (f.address s)
  else if f.width = 2 then !(f.address s).getLsbD 0
  else true

/-- The kind of the first access. -/
def AccessForm.firstKind (f : AccessForm) : AccessKind := if f.reads then .read else .write

/-! ## Block transfers by shape (R170 to R177) -/

/-- LDM in an addressing mode. -/
def BlockMode.ldm (m : BlockMode) (c : Cond) (sb w : Bool) (rn : Reg) (list : BitVec 16) : Instr :=
  match m with
  | .ia => .ldmia c sb w rn list
  | .ib => .ldmib c sb w rn list
  | .da => .ldmda c sb w rn list
  | .db => .ldmdb c sb w rn list

/-- STM in an addressing mode. -/
def BlockMode.stm (m : BlockMode) (c : Cond) (sb w : Bool) (rn : Reg) (list : BitVec 16) : Instr :=
  match m with
  | .ia => .stmia c sb w rn list
  | .ib => .stmib c sb w rn list
  | .da => .stmda c sb w rn list
  | .db => .stmdb c sb w rn list

/-- How many registers of the list have a lower number (R172). -/
def rank (list : BitVec 16) (r : Reg) : Nat := ((List.range r.toNat).filter fun k => list.getLsbD k).length

/-- How many registers are in the list. -/
def count (list : BitVec 16) : Nat := ((List.range 16).filter fun k => list.getLsbD k).length

/-- The address where a register of the list is stored or loaded: the lowest register at the lowest address (R172). The
base's low two bits are ignored where the access is not refused (R54). -/
def slot (s : State) (m : BlockMode) (rn : Reg) (list : BitVec 16) (r : Reg) : Word :=
  blockStart m (alignDown (s.reg rn)) list + BitVec.ofNat 32 (4 * rank list r)

/-- All words of the transfer can be read. -/
def blockReadable (s : State) (m : BlockMode) (rn : Reg) (list : BitVec 16) : Prop :=
  ∀ r, list.getLsbD r.toNat = true → readable s (slot s m rn list r) 4 = true

/-- All words of the transfer can be written. -/
def blockWritable (s : State) (m : BlockMode) (rn : Reg) (list : BitVec 16) : Prop :=
  ∀ r, list.getLsbD r.toNat = true → writable s (slot s m rn list r) 4 = true

/-- The word `slot` holds. -/
def slotWord (s : State) (m : BlockMode) (rn : Reg) (list : BitVec 16) (r : Reg) : Word :=
  s.mem.word s.platform.bigEndian (slot s m rn list r)

/-- The registers of the list other than R15, as a bank sees them. -/
def listed (b : Bank) (list : BitVec 16) : List PhysReg :=
  ((regsOf list).filter fun r => !isPc r).map (physReg b)

/-- The base register, where a block transfer writes it back (R174). -/
def blockBaseMoved (s : State) (w : Bool) (rn : Reg) : List PhysReg := if w then [physReg s.bank rn] else []

/-! ## The step and its instruction (R259) -/

/-- The step reaches the fetch: the run is not over, no reset, no interrupt is taken (R250, R259). -/
def reachesFetch (s : State) : Bool :=
  !s.ended && !s.lines.reset && !(s.lines.fiq && !psrF s.cpsr) && !(s.lines.irq && !psrI s.cpsr)

/-- What the word fetched for the pc decodes to: the word fetched ahead, else the four bytes at the pc in the byte order of
the platform (R51, R63). -/
def nextInstr (s : State) : DecodeResult :=
  match s.prefetched with
  | some x => decode x.1
  | none =>
    decodeBytes s.platform.bigEndian
      [s.mem.read s.pc, s.mem.read (s.pc + 1), s.mem.read (s.pc + 2), s.mem.read (s.pc + 3)]

/-- All four bytes of the word are program text (R63). -/
def textWord (s : State) (a : Word) : Bool := (addrBytes a 4).all s.platform.isText

/-- No word fetched ahead that is program text is stale: it is as memory has it (R41 (b), R63, R288). -/
def TextFresh (s : State) : Prop :=
  ∀ x, s.prefetched = some x →
    (textWord s s.pc = true → x.1 = s.mem.word s.platform.bigEndian s.pc) ∧
    (textWord s (s.pc + 4) = true → x.2 = s.mem.word s.platform.bigEndian (s.pc + 4))

/-- The fetch at the pc is neither aborted nor outside MemMap (R61, R246). -/
def fetchable (s : State) : Bool := !s.platform.abortsAt .fetch s.pc 4 && s.platform.mapped s.pc 4

/-- The instruction is of tier 1, or tier 2 is admitted (R7). -/
def admitted (i : Instr) (s : State) : Bool := !i.isTier2 || decide (s.platform.tier2 = .allow)

end Sys2Proof.Machine
end

