-- ==== Sys2Proof/Certificates/Slice0/Obligations.lean ====
section
/-! DEFINITION. The statements for the provers, in the order of OBLIGATIONS.json. `R<n>` is a rule of spec/, `D<n>` a
decision of 92_eei_decisions.md (the spec's own choice), `G<n>` a row of 93_implementation_defined.md (general knowledge,
not in the source), a log a row of notes/assumptions. -/

open Sys2Proof Sys2Proof.Machine

/-! ## Reset -/

/-- R280: the pc is 0, M is Supervisor, I = F = 1 and T = 0 right after reset. -/
def Obligations.ResetValues : Prop :=
  State.reset.pc = 0x00000000#32 ∧ psrM State.reset.cpsr = 0b10011#5 ∧ psrI State.reset.cpsr = true ∧
  psrF State.reset.cpsr = true ∧ psrT State.reset.cpsr = false

/-- The invariant holds right after reset, and nothing has been fetched ahead. That nothing is listed in memory and that
the SPSRs are 0 is the model's choice (logs 2 and 5), and so is that nothing has been fetched ahead (log 33). -/
def Obligations.ResetMeetsInvariant : Prop := State.reset.inv = true ∧ State.reset.prefetched = none

/-- R280, R63: a reset event sets pc, M, I, F and T, leaves the reserved bits 0 and program text as it is. That a
reset is an event at a boundary (D29), and that program text and the environment's inputs outlive it, is the model's
choice (logs 12 and 13). -/
def Obligations.ResetEvent : Prop :=
  ∀ s : State, s.ended = false → s.lines.reset = true →
    ∃ t, Machine.step s = .next t.tick ∧ JumpsTo t 0x00000000#32 ∧ psrM t.cpsr = 0b10011#5 ∧ psrI t.cpsr = true ∧
      psrF t.cpsr = true ∧ psrT t.cpsr = false ∧ field t.cpsr 8 20 = 0#20 ∧ SameSurroundings s t ∧
      ∀ a, s.platform.isText a = true → t.mem.read a = s.mem.read a

/-! ## Encoding -/

/-- Every instruction decodes from its encoding, with every operand at every value. -/
def Obligations.DecodeOfEncode : Prop := ∀ i : Instr, decode (encode i) = .ok i

/-- A word that decodes to an instruction is that instruction's encoding: no bit of the word is dropped, and no two
words are one instruction. -/
def Obligations.EncodeOfDecode : Prop := ∀ (w : Word) (i : Instr), decode w = .ok i → encode i = w

/-- R76: exactly the words whose bits 31:28 are 1111 have no condition. That such a word is refused is the spec's
decision D7. -/
def Obligations.NeverConditionWords : Prop := ∀ w : Word, decode w = .neverCondition ↔ field w 28 4 = 0b1111#4

/-- Words the spec gives as examples decode to the instructions it says they are. -/
def Obligations.SpecExampleWords : Prop :=
  decode 0xEA000006#32 = .ok (.b .al 6#24) ∧
  decode 0xEB00003E#32 = .ok (.bl .al 0x3E#24) ∧
  decode 0xE12FFF1E#32 = .ok (.bx .al 14#4) ∧
  decode 0xE10F0000#32 = .ok (.mrs .al false 0#4) ∧
  decode 0xE121F000#32 = .ok (.msrReg .al false 0b0001#4 0#4) ∧
  decode 0xE328F20F#32 = .ok (.msrImm .al false 0b1000#4 2#4 0x0F#8) ∧
  decode 0xE5910084#32 = .ok (.ldrImm .al true true false 1#4 0#4 132#12) ∧
  decode 0xE5202004#32 = .ok (.strImm .al true false true 0#4 2#4 4#12) ∧
  decode 0xE1D101B2#32 = .ok (.ldrhImm .al true true false 1#4 0#4 0x12#8) ∧
  decode 0xE0000291#32 = .ok (.mul .al false 0#4 2#4 1#4) ∧
  decode 0xE0810392#32 = .ok (.umull .al false 1#4 0#4 3#4 2#4) ∧
  decode 0xE1020091#32 = .ok (.swp .al 2#4 0#4 1#4) ∧
  decode 0xEF123456#32 = .ok (.swi .al 0x123456#24)

/-! ## The step -/

/-- R259, R7, R75, R27, R63: where no reset and no interrupt comes first, the word fetched for the pc is run, with the two
words after it fetched before it runs (the one at pc + 4 as it was fetched earlier, where it was), and after it the
environment moves to the next boundary, which changes nothing but the lines and the schedule. Under TIER2 = refuse an
instruction of tier 2 is refused where its condition passes, and is run, to do nothing, where it fails. How the
environment moves on is the model's choice (log 12), tier 2 is a parameter (D2, log 1), and so is the place of its
refusal after the condition (log 1). The words fetched ahead are marked G2 and G30 (log 33). -/
def Obligations.StepRunsDecodedInstruction : Prop :=
  ∀ (s : State) (i : Instr), reachesFetch s = true → fetchable s = true → nextInstr s = .ok i →
    ((admitted i s = true ∨ condPassed i.cond s.cpsr = false) →
      Machine.step s =
        (match Machine.exec i s.fetchAhead with
          | .next t => .next t.tick
          | .fault r => .fault r
          | .refused r => .refused r)) ∧
    (i.isTier2 = true → s.platform.tier2 = .refuse → condPassed i.cond s.cpsr = true →
      Machine.step s = .refused .tier2NotAdmitted) ∧
    (∃ next : Word,
      s.fetchAhead = { s with prefetched := some (next, s.mem.word s.platform.bigEndian (s.pc + 8)) } ∧
      (s.prefetched = none → next = s.mem.word s.platform.bigEndian (s.pc + 4)) ∧
      ∀ x, s.prefetched = some x → next = x.2) ∧
    ∀ t : State, t.tick = { t with lines := t.upcoming.headD t.lines, upcoming := t.upcoming.tail }

/-- R250: FIQ is taken before IRQ, each only where its mask bit is clear, with A + 4 in the banked R14. The entry
sequence of FIQ is the spec's generalisation (D18), and the moving on of the lines is the model's choice (log 12). -/
def Obligations.InterruptEntry : Prop :=
  ∀ s : State, s.ended = false → s.lines.reset = false →
    (s.lines.fiq = true → psrF s.cpsr = false →
      ∃ t, Machine.step s = .next t.tick ∧ Entered s t .fiq 0b10001#5 (s.pc + 4) 0x0000001C#32 true) ∧
    (s.lines.irq = true → psrI s.cpsr = false → (s.lines.fiq = false ∨ psrF s.cpsr = true) →
      ∃ t, Machine.step s = .next t.tick ∧ Entered s t .irq 0b10010#5 (s.pc + 4) 0x00000018#32 false)

/-- R246, R243, R253: a fetch that the memory system aborts enters Prefetch Abort, after the interrupt check and whatever
the word at the pc is. The entry sequence of Prefetch Abort is the spec's generalisation (D18), its link is marked G29,
and the moving on of the lines is the model's choice (log 12). -/
def Obligations.FetchAbort : Prop :=
  ∀ s : State, reachesFetch s = true → s.platform.abortsAt .fetch s.pc 4 = true →
    ∃ t, Machine.step s = .next t.tick ∧ Entered s t .abt 0b10111#5 (s.pc + 4) 0x0000000C#32 false

/-- R76, R90 (c), R245: a word with the condition 1111 is refused; a word of no row does nothing where its condition
fails (and is refused where the pc cannot go on, R28) and else traps or is refused as the parameter says. That the
condition 1111 is refused is the spec's decision D7 (log 18), what a word of no row does is D8 (log 9), that it
traps under undefined-trap whatever TIER2 is is the model's choice (log 34), that its condition comes first is marked
G27, the refusal past the top is D21 (log 21), the entry sequence is D18, its link is marked G28, and the moving on of
the lines is the model's choice (log 12). -/
def Obligations.WordsOfNoRow : Prop :=
  ∀ s : State, reachesFetch s = true → fetchable s = true →
    (nextInstr s = .neverCondition → Machine.step s = .refused .neverCondition) ∧
    (∀ c, nextInstr s = .reserved c →
      (condPassed c s.cpsr = false → fallsThrough s = true →
        ∃ t, Machine.step s = .next t.tick ∧ Plain s.fetchAhead t []) ∧
      (condPassed c s.cpsr = false → fallsThrough s = false → Machine.step s = .refused .pcWrap) ∧
      (condPassed c s.cpsr = true → s.platform.reserved = .refuse → Machine.step s = .refused .reservedWord) ∧
      (condPassed c s.cpsr = true → s.platform.reserved = .undefinedTrap →
        ∃ t, Machine.step s = .next t.tick ∧ Entered s t .und 0b11011#5 (s.pc + 4) 0x00000004#32 false))

/-- R75, R28: an instruction whose condition fails changes nothing but the pc, which goes on by 4; past the top of the
address space that is refused. For the undefined and the coprocessor instructions it is marked G27, and the refusal
past the top is D21 (log 21). -/
def Obligations.FailedConditionDoesNothing : Prop :=
  ∀ (i : Instr) (s : State), condPassed i.cond s.cpsr = false →
    (s.pc ≠ 0xFFFFFFFC#32 → ∃ t, Machine.exec i s = .next t ∧ Plain s t []) ∧
    (s.pc = 0xFFFFFFFC#32 → Machine.exec i s = .refused .pcWrap)

/-- D16, D23, D24: an instruction with a refused operand combination is refused where its condition passes. These
refusals are the spec's decisions, and that they come after the condition is the model's choice (log 17). -/
def Obligations.IllFormedIsRefused : Prop :=
  ∀ (i : Instr) (s : State), i.wellFormed = false → condPassed i.cond s.cpsr = true →
    Machine.exec i s = .refused .unpredictableOperands ∨ Machine.exec i s = .refused .userTransfer ∨
      Machine.exec i s = .refused .userBankForm

/-! ## Registers, conditions, memory -/

/-- R23: User and System mode share a column of Figure 1-2 and every other mode has its own; two register names of two
modes are one register exactly where the figure has them in one cell, and every register has a name; a register written
reads back, and no other register, by whatever mode it is seen, changes; each mode but User and System has an SPSR of its
own. -/
def Obligations.RegisterBanks : Prop :=
  (bankOf Mode.usr.bits = .usr ∧ bankOf Mode.sys.bits = .usr ∧ bankOf Mode.fiq.bits = .fiq ∧
    bankOf Mode.svc.bits = .svc ∧ bankOf Mode.abt.bits = .abt ∧ bankOf Mode.irq.bits = .irq ∧
    bankOf Mode.und.bits = .und) ∧
  (∀ p : PhysReg, ∃ (b : Bank) (r : Reg), r ≠ 15#4 ∧ physReg b r = p) ∧
  (∀ (a b : Bank) (x y : Reg), x ≠ 15#4 → y ≠ 15#4 →
    (physReg a x = physReg b y ↔
      x = y ∧ (a = b ∨ x.toNat ≤ 7 ∨ (x.toNat ≤ 12 ∧ a ≠ .fiq ∧ b ≠ .fiq)))) ∧
  (∀ (s : State) (r : Reg) (v : Word), r ≠ 15#4 →
    s.bank = bankOf (psrM s.cpsr) ∧ s.reg r = s.phys (physReg s.bank r) ∧
      (s.setReg r v).reg r = v ∧ Frame s (s.setReg r v) [physReg s.bank r] ∧ (s.setReg r v).pc = s.pc ∧ (s.setReg r v).prefetched = s.prefetched ∧
      (s.setReg r v).cpsr = s.cpsr ∧ SameBytes s (s.setReg r v)) ∧
  ∀ (s : State) (a b : Bank) (v : Word), a ≠ .usr →
    s.spsrOf .usr = none ∧ (s.setSpsr a v).spsrOf a = some v ∧ (b ≠ a → (s.setSpsr a v).spsrOf b = s.spsrOf b) ∧
      (s.setSpsr a v).cpsr = s.cpsr ∧ OnlyRegs s (s.setSpsr a v) []

/-- R74, R30: for every status word each of the fifteen conditions passes as the test column says, N, Z, C and V being
bits 31 to 28; and after the flags of a comparison of `a` with `b` (R112, R115), each condition says, as the meaning
column has it, how the two compare, unsigned or signed, or what sign and overflow their difference has. The places of
the flags are marked G3, and carry and overflow G11. -/
def Obligations.ConditionsCompare : Prop :=
  (∀ p : Word,
    (condPassed .eq p = true ↔ p.getLsbD 30 = true) ∧ (condPassed .ne p = true ↔ p.getLsbD 30 = false) ∧
    (condPassed .cs p = true ↔ p.getLsbD 29 = true) ∧ (condPassed .cc p = true ↔ p.getLsbD 29 = false) ∧
    (condPassed .mi p = true ↔ p.getLsbD 31 = true) ∧ (condPassed .pl p = true ↔ p.getLsbD 31 = false) ∧
    (condPassed .vs p = true ↔ p.getLsbD 28 = true) ∧ (condPassed .vc p = true ↔ p.getLsbD 28 = false) ∧
    (condPassed .hi p = true ↔ p.getLsbD 29 = true ∧ p.getLsbD 30 = false) ∧
    (condPassed .ls p = true ↔ p.getLsbD 29 = false ∨ p.getLsbD 30 = true) ∧
    (condPassed .ge p = true ↔ p.getLsbD 31 = p.getLsbD 28) ∧
    (condPassed .lt p = true ↔ p.getLsbD 31 ≠ p.getLsbD 28) ∧
    (condPassed .gt p = true ↔ p.getLsbD 30 = false ∧ p.getLsbD 31 = p.getLsbD 28) ∧
    (condPassed .le p = true ↔ p.getLsbD 30 = true ∨ p.getLsbD 31 ≠ p.getLsbD 28) ∧
    condPassed .al p = true) ∧
  ∀ (a b p : Word), psrFlags p = arithNzcv .sub a b true →
    condPassed .eq p = decide (a = b) ∧ condPassed .ne p = decide (a ≠ b) ∧
    condPassed .cs p = decide (b.toNat ≤ a.toNat) ∧ condPassed .cc p = decide (a.toNat < b.toNat) ∧
    condPassed .mi p = decide ((a - b).toInt < 0) ∧ condPassed .pl p = decide (0 ≤ (a - b).toInt) ∧
    condPassed .vs p = decide (a.toInt - b.toInt ≠ (a - b).toInt) ∧
    condPassed .vc p = decide (a.toInt - b.toInt = (a - b).toInt) ∧
    condPassed .hi p = decide (b.toNat < a.toNat) ∧ condPassed .ls p = decide (a.toNat ≤ b.toNat) ∧
    condPassed .ge p = decide (b.toInt ≤ a.toInt) ∧ condPassed .lt p = decide (a.toInt < b.toInt) ∧
    condPassed .gt p = decide (b.toInt < a.toInt) ∧ condPassed .le p = decide (a.toInt ≤ b.toInt)

/-- R50: what a word and a halfword read as from their bytes, in either byte order, and which byte of a word or halfword
written goes to which address. -/
def Obligations.ByteOrder : Prop :=
  ∀ (m : Memory) (a v : Word) (h : Half),
    (m.word false a).toNat = (m.read a).toNat + 256 * (m.read (a + 1)).toNat + 65536 * (m.read (a + 2)).toNat +
      16777216 * (m.read (a + 3)).toNat ∧
    (m.word true a).toNat = 16777216 * (m.read a).toNat + 65536 * (m.read (a + 1)).toNat +
      256 * (m.read (a + 2)).toNat + (m.read (a + 3)).toNat ∧
    (m.half false a).toNat = (m.read a).toNat + 256 * (m.read (a + 1)).toNat ∧
    (m.half true a).toNat = 256 * (m.read a).toNat + (m.read (a + 1)).toNat ∧
    m.setWord false a v = ((((m.write a (field v 0 8)).write (a + 1) (field v 8 8)).write (a + 2) (field v 16 8)).write
      (a + 3) (field v 24 8)) ∧
    m.setWord true a v = ((((m.write a (field v 24 8)).write (a + 1) (field v 16 8)).write (a + 2) (field v 8 8)).write
      (a + 3) (field v 0 8)) ∧
    m.setHalf false a h = (m.write a (h.extractLsb' 0 8)).write (a + 1) (h.extractLsb' 8 8) ∧
    m.setHalf true a h = (m.write a (h.extractLsb' 8 8)).write (a + 1) (h.extractLsb' 0 8)

/-- R50, R52: a word or halfword written reads back in its byte order, each byte and each halfword of a word where the
order puts it, and no other byte changes. Memory in the canonical form is the model's (log 5). -/
def Obligations.WriteThenRead : Prop :=
  ∀ (m : Memory) (big : Bool) (a v : Word) (h : Half), m.wf = true →
    (m.setWord big a v).word big a = v ∧
    (∀ k : Nat, k < 4 → (m.setWord big a v).read (a + BitVec.ofNat 32 k) =
      if big then field v (24 - 8 * k) 8 else field v (8 * k) 8) ∧
    (m.setWord big a v).half big a = (if big then field v 16 16 else field v 0 16) ∧
    (m.setWord big a v).half big (a + 2) = (if big then field v 0 16 else field v 16 16) ∧
    (∀ b, b ∉ addrBytes a 4 → (m.setWord big a v).read b = m.read b) ∧
    (m.setHalf big a h).half big a = h ∧
    (∀ b, b ∉ addrBytes a 2 → (m.setHalf big a h).read b = m.read b)

/-! ## The shifter and the adder -/

/-- R80: shift by immediate: what is shifted, R15 read as pc + 8, and the table. The rows of amount 0 are marked G8.
-/
def Obligations.ShiftByImmediate : Prop :=
  (∀ (s : State) (amt : BitVec 5) (sh : ShiftType) (rm : Reg), op2ShiftImm s amt sh rm =
    shiftByImm sh amt.toNat (if rm = 15#4 then s.pc + 8 else s.phys (physReg s.bank rm)) (psrC s.cpsr)) ∧
  ∀ (m : Word) (cin : Bool),
    shiftByImm .lsl 0 m cin = ⟨m, cin⟩ ∧
    shiftByImm .lsr 0 m cin = ⟨0#32, m.getLsbD 31⟩ ∧
    shiftByImm .asr 0 m cin = ⟨if m.getLsbD 31 then 0xFFFFFFFF#32 else 0#32, m.getLsbD 31⟩ ∧
    ((shiftByImm .ror 0 m cin).value.toNat = (if cin then 2147483648 else 0) + m.toNat / 2 ∧
      (shiftByImm .ror 0 m cin).carry = m.getLsbD 0) ∧
    ∀ n : Nat, 1 ≤ n → n ≤ 31 →
      ((shiftByImm .lsl n m cin).value.toNat = m.toNat * 2 ^ n % 4294967296 ∧
        (shiftByImm .lsl n m cin).carry = m.getLsbD (32 - n)) ∧
      ((shiftByImm .lsr n m cin).value.toNat = m.toNat / 2 ^ n ∧
        (shiftByImm .lsr n m cin).carry = m.getLsbD (n - 1)) ∧
      ((shiftByImm .asr n m cin).value.toInt = m.toInt / 2 ^ n ∧
        (shiftByImm .asr n m cin).carry = m.getLsbD (n - 1)) ∧
      ((∀ i : Nat, i < 32 → (shiftByImm .ror n m cin).value.getLsbD i = m.getLsbD ((i + n) % 32)) ∧
        (shiftByImm .ror n m cin).carry = m.getLsbD (n - 1))

/-- R81: shift by register, `n` the low byte of Rs, R15 as Rm read as pc + 12, and the table. The table is marked G8.
-/
def Obligations.ShiftByRegister : Prop :=
  (∀ (s : State) (rs : Reg) (sh : ShiftType) (rm : Reg), rs ≠ 15#4 → op2ShiftReg s rs sh rm =
    shiftByReg sh ((s.phys (physReg s.bank rs)).toNat % 256)
      (if rm = 15#4 then s.pc + 12 else s.phys (physReg s.bank rm)) (psrC s.cpsr)) ∧
  ∀ (m : Word) (cin : Bool) (t : ShiftType) (n : Nat), n ≤ 255 →
    (n = 0 → shiftByReg t n m cin = ⟨m, cin⟩) ∧
    (1 ≤ n → n ≤ 31 → shiftByReg t n m cin = shiftByImm t n m cin) ∧
    (n = 32 → t = .lsl → shiftByReg t n m cin = ⟨0#32, m.getLsbD 0⟩) ∧
    (n = 32 → t = .lsr → shiftByReg t n m cin = ⟨0#32, m.getLsbD 31⟩) ∧
    (33 ≤ n → t = .lsl ∨ t = .lsr → shiftByReg t n m cin = ⟨0#32, false⟩) ∧
    (32 ≤ n → t = .asr →
      shiftByReg t n m cin = ⟨if m.getLsbD 31 then 0xFFFFFFFF#32 else 0#32, m.getLsbD 31⟩) ∧
    (1 ≤ n → n % 32 = 0 → t = .ror → shiftByReg t n m cin = ⟨m, m.getLsbD 31⟩) ∧
    (33 ≤ n → n % 32 ≠ 0 → t = .ror → shiftByReg t n m cin = shiftByImm .ror (n % 32) m cin)

/-- R83: an immediate operand 2 is the 8-bit value rotated right by twice the rotate field, and the carry-out is C
where that field is 0, else bit 31 of the value. The doubled rotate field is marked G7. -/
def Obligations.RotatedImmediate : Prop :=
  ∀ (s : State) (rot : BitVec 4) (imm8 : BitVec 8),
    (∀ i : Nat, i < 32 →
      (op2Imm s rot imm8).value.getLsbD i = (imm8.setWidth 32).getLsbD ((i + 2 * rot.toNat) % 32)) ∧
    (op2Imm s rot imm8).carry =
      if rot = 0#4 then psrC s.cpsr else (imm8.setWidth 32).getLsbD ((31 + 2 * rot.toNat) % 32)

/-- R115: the adder. Carry and overflow are marked G11. -/
def Obligations.Adder : Prop :=
  ∀ (a b : Word) (cin : Bool),
    (addWithCarry a b cin).result = a + b + (if cin then 1#32 else 0#32) ∧
    (addWithCarry a b cin).carry = decide (4294967296 ≤ a.toNat + b.toNat + cin.toNat) ∧
    ((addWithCarry a b cin).overflow = true ↔
      a.getLsbD 31 = b.getLsbD 31 ∧ (addWithCarry a b cin).result.getLsbD 31 ≠ a.getLsbD 31)

/-! ## Data processing -/

/-- R110, R111, R114, R28: AND, EOR, ORR, BIC, MOV, MVN in every form of operand 2, Rd not R15, refused where the pc
cannot go on past 0xFFFFFFFC. That V is kept is marked G9. The refusal past 0xFFFFFFFC is D21, and that it leaves
nothing written is log 21. -/
def Obligations.LogicalResult : Prop :=
  ∀ (op : DpOp) (x : Op2) (c : Cond) (sb : Bool) (rn rd : Reg) (s : State), op.logical = true → rd ≠ 15#4 →
    runs (op.instr c sb rn rd x) s = true →
    (fallsThrough s = true → ∃ t, Machine.exec (op.instr c sb rn rd x) s = .next t ∧
      t.phys (physReg s.bank rd) = op.result (x.first s rn) (x.out s).value (psrC s.cpsr) ∧
      Advances s t ∧
      FlagsBecome s t
        (if sb then logicalNzcv s (op.result (x.first s rn) (x.out s).value (psrC s.cpsr)) (x.out s).carry
          else psrFlags s.cpsr) ∧
      Frame s t [physReg s.bank rd] ∧ SameBytes s t) ∧
    (fallsThrough s = false → Machine.exec (op.instr c sb rn rd x) s = .refused .pcWrap)

/-- R110, R112, R114, R115, R28: ADD, ADC, SUB, SBC, RSB, RSC in every form of operand 2, Rd not R15, with C and V as
the exact unsigned and signed values say, refused where the pc cannot go on past 0xFFFFFFFC. Carry and overflow are
marked G11. The refusal past 0xFFFFFFFC is D21, and that it leaves nothing written is log 21. -/
def Obligations.ArithmeticResult : Prop :=
  ∀ (op : DpOp) (x : Op2) (c : Cond) (sb : Bool) (rn rd : Reg) (s : State), op.logical = false → rd ≠ 15#4 →
    runs (op.instr c sb rn rd x) s = true →
    (fallsThrough s = true → ∃ t, Machine.exec (op.instr c sb rn rd x) s = .next t ∧
      t.phys (physReg s.bank rd) = op.result (x.first s rn) (x.out s).value (psrC s.cpsr) ∧
      Advances s t ∧
      FlagsBecome s t
        (if sb then arithNzcv op (x.first s rn) (x.out s).value (psrC s.cpsr) else psrFlags s.cpsr) ∧
      Frame s t [physReg s.bank rd] ∧ SameBytes s t) ∧
    (fallsThrough s = false → Machine.exec (op.instr c sb rn rd x) s = .refused .pcWrap)

/-- R126 to R129, R28: TST and TEQ set the flags of AND and EOR, CMP and CMN those of SUB and ADD; no register
changes; refused where the pc cannot go on past 0xFFFFFFFC. That V is kept by TST and TEQ is marked G9. The refusal
past 0xFFFFFFFC is D21, and that it leaves nothing written is log 21. -/
def Obligations.TestsSetFlagsOnly : Prop :=
  ∀ (op : TestOp) (x : Op2) (c : Cond) (rn : Reg) (s : State),
    runs (op.instr c rn x) s = true →
    (fallsThrough s = true → ∃ t, Machine.exec (op.instr c rn x) s = .next t ∧ Advances s t ∧
      FlagsBecome s t
        (match op with
          | .tst => logicalNzcv s (x.first s rn &&& (x.out s).value) (x.out s).carry
          | .teq => logicalNzcv s (x.first s rn ^^^ (x.out s).value) (x.out s).carry
          | .cmp => arithNzcv .sub (x.first s rn) (x.out s).value (psrC s.cpsr)
          | .cmn => arithNzcv .add (x.first s rn) (x.out s).value (psrC s.cpsr)) ∧
      Frame s t [] ∧ SameBytes s t) ∧
    (fallsThrough s = false → Machine.exec (op.instr c rn x) s = .refused .pcWrap)

/-- R113, R28: with Rd = R15 and S = 0 the result is jumped to, or refused where it is not a multiple of 4; no flag
and no register changes. The refusal is the spec's decision D6. -/
def Obligations.DataProcessingJump : Prop :=
  ∀ (op : DpOp) (x : Op2) (c : Cond) (rn : Reg) (s : State), runs (op.instr c false rn 15#4 x) s = true →
    (wordAligned (op.result (x.first s rn) (x.out s).value (psrC s.cpsr)) = true →
      ∃ t, Machine.exec (op.instr c false rn 15#4 x) s = .next t ∧
        JumpsTo t (op.result (x.first s rn) (x.out s).value (psrC s.cpsr)) ∧ t.cpsr = s.cpsr ∧ Frame s t [] ∧
        SameBytes s t) ∧
    (wordAligned (op.result (x.first s rn) (x.out s).value (psrC s.cpsr)) = false →
      Machine.exec (op.instr c false rn 15#4 x) s = .refused .misalignedPc)

/-- R113, R255: with Rd = R15 and S = 1 the result is jumped to and the CPSR is the SPSR of the mode the instruction
runs in; no register changes. In User and System mode, where the result is not a multiple of 4, and where the SPSR has
T = 1 or no mode, it is refused. That this holds in every mode with an SPSR is marked G12, the refusals are D3, D6,
D16 and D20, and their order is the model's choice (log 23). -/
def Obligations.DataProcessingReturn : Prop :=
  ∀ (op : DpOp) (x : Op2) (c : Cond) (rn : Reg) (s : State), runs (op.instr c true rn 15#4 x) s = true →
    (s.spsrOf s.bank = none → Machine.exec (op.instr c true rn 15#4 x) s = .refused .noSpsr) ∧
    ∀ saved, s.spsrOf s.bank = some saved →
      (wordAligned (op.result (x.first s rn) (x.out s).value (psrC s.cpsr)) = false →
        Machine.exec (op.instr c true rn 15#4 x) s = .refused .misalignedPc) ∧
      (wordAligned (op.result (x.first s rn) (x.out s).value (psrC s.cpsr)) = true →
      (psrT saved = true → Machine.exec (op.instr c true rn 15#4 x) s = .refused .thumbState) ∧
      (psrT saved = false → Mode.ofBits (psrM saved) = none →
        Machine.exec (op.instr c true rn 15#4 x) s = .refused .illegalMode) ∧
      (psrT saved = false → Mode.ofBits (psrM saved) ≠ none →
        ∃ t, Machine.exec (op.instr c true rn 15#4 x) s = .next t ∧
          JumpsTo t (op.result (x.first s rn) (x.out s).value (psrC s.cpsr)) ∧ t.cpsr = saved ∧ Frame s t [] ∧
          SameBytes s t))

/-! ## Branches -/

/-- R100 to R102: B and BL go to pc + 8 plus four times the signed offset, modulo 2^32; BL leaves the address of the
next instruction in R14 of the current mode; nothing else changes. That the target counts from pc + 8 and the link is
pc + 4 is marked G5. -/
def Obligations.BranchAndLink : Prop :=
  ∀ (c : Cond) (off : BitVec 24) (s : State), condPassed c s.cpsr = true → wordAligned s.pc = true →
    (∃ t, Machine.exec (.b c off) s = .next t ∧ JumpsTo t (s.pc + 8 + BitVec.ofInt 32 (4 * off.toInt)) ∧
      t.cpsr = s.cpsr ∧ Frame s t [] ∧ SameBytes s t) ∧
    (∃ t, Machine.exec (.bl c off) s = .next t ∧ JumpsTo t (s.pc + 8 + BitVec.ofInt 32 (4 * off.toInt)) ∧
      t.phys (physReg s.bank 14#4) = s.pc + 4 ∧ t.cpsr = s.cpsr ∧ Frame s t [physReg s.bank 14#4] ∧ SameBytes s t)

/-- R103: BX jumps to a multiple of 4; an odd value and a value with bit 1 set are refused, each by its own name. The
behaviour is marked G19, the refusals are D3 and D6. -/
def Obligations.BranchExchange : Prop :=
  ∀ (c : Cond) (rn : Reg) (s : State), runs (.bx c rn) s = true →
    ((s.phys (physReg s.bank rn)).getLsbD 0 = true → Machine.exec (.bx c rn) s = .refused .thumbState) ∧
    ((s.phys (physReg s.bank rn)).getLsbD 0 = false → (s.phys (physReg s.bank rn)).getLsbD 1 = true →
      Machine.exec (.bx c rn) s = .refused .misalignedPc) ∧
    ((s.phys (physReg s.bank rn)).getLsbD 0 = false → (s.phys (physReg s.bank rn)).getLsbD 1 = false →
      ∃ t, Machine.exec (.bx c rn) s = .next t ∧ JumpsTo t (s.phys (physReg s.bank rn)) ∧ t.cpsr = s.cpsr ∧
        Frame s t [] ∧ SameBytes s t)

/-! ## PSR transfer -/

/-- R141: MRS copies the CPSR, or the SPSR of the current mode, to Rd; without an SPSR it is refused. The behaviour is
marked G10, the refusal is D16. -/
def Obligations.MrsReadsStatus : Prop :=
  ∀ (c : Cond) (rd : Reg) (s : State), runs (.mrs c false rd) s = true → fallsThrough s = true →
    (∃ t, Machine.exec (.mrs c false rd) s = .next t ∧ t.phys (physReg s.bank rd) = s.cpsr ∧
      Plain s t [physReg s.bank rd]) ∧
    (∀ saved, s.spsrOf s.bank = some saved →
      ∃ t, Machine.exec (.mrs c true rd) s = .next t ∧ t.phys (physReg s.bank rd) = saved ∧
        Plain s t [physReg s.bank rd]) ∧
    (s.spsrOf s.bank = none → Machine.exec (.mrs c true rd) s = .refused .noSpsr)

/-- R142, R33, R34: MSR to the CPSR in a privileged mode, in the register and the immediate form: the bytes the mask
selects are written, T and the reserved bits are kept; where the control byte is selected and T would change, or M
would be no mode, it is refused. The behaviour is marked G10 and G25, the refusals are D3 and D20. -/
def Obligations.MsrWritesCpsr : Prop :=
  ∀ (x : MsrOperand) (c : Cond) (fields : BitVec 4) (s : State), psrM s.cpsr ≠ 0b10000#5 →
    runs (x.instr c false fields) s = true →
    (fields.getLsbD 0 = true → psrT (x.value s) ≠ psrT s.cpsr →
      Machine.exec (x.instr c false fields) s = .refused .thumbState) ∧
    (fields.getLsbD 0 = true → psrT (x.value s) = psrT s.cpsr → Mode.ofBits (psrM (x.value s)) = none →
      Machine.exec (x.instr c false fields) s = .refused .illegalMode) ∧
    (fallsThrough s = true →
      (fields.getLsbD 0 = true → psrT (x.value s) = psrT s.cpsr ∧ Mode.ofBits (psrM (x.value s)) ≠ none) →
      ∃ t, Machine.exec (x.instr c false fields) s = .next t ∧ Advances s t ∧
        (psrFlags t.cpsr = if fields.getLsbD 3 then psrFlags (x.value s) else psrFlags s.cpsr) ∧
        field t.cpsr 8 20 = field s.cpsr 8 20 ∧
        (psrI t.cpsr = if fields.getLsbD 0 then psrI (x.value s) else psrI s.cpsr) ∧
        (psrF t.cpsr = if fields.getLsbD 0 then psrF (x.value s) else psrF s.cpsr) ∧
        psrT t.cpsr = psrT s.cpsr ∧
        (psrM t.cpsr = if fields.getLsbD 0 then psrM (x.value s) else psrM s.cpsr) ∧
        Frame s t [] ∧ SameBytes s t)

/-- R142, R261: in User mode MSR to the CPSR writes the flags where the mask selects them, and silently nothing else.
It is marked G25. -/
def Obligations.MsrInUserMode : Prop :=
  ∀ (x : MsrOperand) (c : Cond) (fields : BitVec 4) (s : State), psrM s.cpsr = 0b10000#5 →
    runs (x.instr c false fields) s = true → fallsThrough s = true →
    ∃ t, Machine.exec (x.instr c false fields) s = .next t ∧ Advances s t ∧
      FlagsBecome s t (if fields.getLsbD 3 then psrFlags (x.value s) else psrFlags s.cpsr) ∧
      Frame s t [] ∧ SameBytes s t

/-- R142: MSR to the SPSR writes the bytes the mask selects of the SPSR of the current mode, reserved bits apart, and
no other SPSR; without one it is refused. The behaviour is marked G10, the refusal is D16. -/
def Obligations.MsrWritesSpsr : Prop :=
  ∀ (x : MsrOperand) (c : Cond) (fields : BitVec 4) (s : State),
    runs (x.instr c true fields) s = true → fallsThrough s = true →
    (s.spsrOf s.bank = none → Machine.exec (x.instr c true fields) s = .refused .noSpsr) ∧
    (∀ old, s.spsrOf s.bank = some old →
      ∃ t new, Machine.exec (x.instr c true fields) s = .next t ∧ t.spsrOf s.bank = some new ∧
        psrFlags new = (if fields.getLsbD 3 then psrFlags (x.value s) else psrFlags old) ∧
        field new 8 20 = field old 8 20 ∧
        field new 0 8 = (if fields.getLsbD 0 then field (x.value s) 0 8 else field old 0 8) ∧
        (∀ b, b ≠ s.bank → t.spsrOf b = s.spsrOf b) ∧ Advances s t ∧ t.cpsr = s.cpsr ∧ OnlyRegs s t [] ∧
        SameSurroundings s t ∧ t.draws = s.draws ∧ SameBytes s t)

/-! ## Single data transfer -/

/-- R153, R212: the base moves by the offset, up or down by U, and the address is the moved base when pre-indexed, the
base itself when post-indexed; R15 as base reads pc + 8. R172: the address of the lowest register of a block transfer and
the base after its write-back. -/
def Obligations.TransferAddresses : Prop :=
  (∀ (s : State) (u : Bool) (rn : Reg) (offset base : Word),
    base = (if rn = 15#4 then s.pc + 8 else s.phys (physReg s.bank rn)) →
    (transferTarget s true rn offset).toNat = (base.toNat + offset.toNat) % 4294967296 ∧
    transferTarget s false rn offset + offset = base ∧
    transferAddress s true u rn offset = transferTarget s u rn offset ∧
    transferAddress s false u rn offset = base) ∧
  ∀ (base : Word) (list : BitVec 16),
    blockStart .ia base list = base ∧ blockStart .ib base list = base + 4 ∧
    blockStart .da base list + BitVec.ofNat 32 (4 * count list) = base + 4 ∧
    blockStart .db base list + BitVec.ofNat 32 (4 * count list) = base ∧
    blockFinal .ia base list = base + BitVec.ofNat 32 (4 * count list) ∧
    blockFinal .ib base list = base + BitVec.ofNat 32 (4 * count list) ∧
    blockFinal .da base list + BitVec.ofNat 32 (4 * count list) = base ∧
    blockFinal .db base list + BitVec.ofNat 32 (4 * count list) = base

/-- R153, R154, R54: LDR, Rd not R15; a misaligned address, where it is not refused, gives the aligned word rotated.
The rotation is the spec's parameter MISALIGNED_WORD (D5, log 8), and the memory system is asked about the aligned
address (log 28). -/
def Obligations.LdrLoadsWord : Prop :=
  ∀ (x : WordOffset) (c : Cond) (p u w : Bool) (rn rd : Reg) (s : State), rd ≠ 15#4 →
    runs (x.ldr c p u w rn rd) s = true → fallsThrough s = true →
    wordAccessOk s (transferAddress s p u rn (x.value s)) = true →
    readable s (alignDown (transferAddress s p u rn (x.value s))) 4 = true →
    ∃ t, Machine.exec (x.ldr c p u w rn rd) s = .next t ∧
      t.phys (physReg s.bank rd) = loadedWord s (transferAddress s p u rn (x.value s)) ∧
      BaseAfter s t p u w rn (x.value s) ∧ Plain s t (physReg s.bank rd :: baseMoved s p w rn)

/-- R153, R154, R28, R54: LDR with Rd = R15 jumps to the word loaded, refused where that is not a multiple of 4. The
refusal is the spec's decision D6; a misaligned address is taken as MISALIGNED_WORD = rotate has it (D5, log 8), and
the memory system is asked about the aligned address (log 28). -/
def Obligations.LdrJumps : Prop :=
  ∀ (x : WordOffset) (c : Cond) (p u w : Bool) (rn : Reg) (s : State),
    runs (x.ldr c p u w rn 15#4) s = true →
    wordAccessOk s (transferAddress s p u rn (x.value s)) = true →
    readable s (alignDown (transferAddress s p u rn (x.value s))) 4 = true →
    (wordAligned (loadedWord s (transferAddress s p u rn (x.value s))) = true →
      ∃ t, Machine.exec (x.ldr c p u w rn 15#4) s = .next t ∧
        JumpsTo t (loadedWord s (transferAddress s p u rn (x.value s))) ∧
        BaseAfter s t p u w rn (x.value s) ∧ t.cpsr = s.cpsr ∧ Frame s t (baseMoved s p w rn) ∧ SameBytes s t) ∧
    (wordAligned (loadedWord s (transferAddress s p u rn (x.value s))) = false →
      Machine.exec (x.ldr c p u w rn 15#4) s = .refused .misalignedPc)

/-- R153, R156: LDRB, zero-extended, at any address. The zero extension is marked G14. -/
def Obligations.LdrbLoadsByte : Prop :=
  ∀ (x : WordOffset) (c : Cond) (p u w : Bool) (rn rd : Reg) (s : State),
    runs (x.ldrb c p u w rn rd) s = true → fallsThrough s = true →
    readable s (transferAddress s p u rn (x.value s)) 1 = true →
    ∃ t, Machine.exec (x.ldrb c p u w rn rd) s = .next t ∧
      (t.phys (physReg s.bank rd)).toNat = (s.mem.read (transferAddress s p u rn (x.value s))).toNat ∧
      BaseAfter s t p u w rn (x.value s) ∧ Plain s t (physReg s.bank rd :: baseMoved s p w rn)

/-- R153, R155, R27, R54: STR stores Rd, R15 as pc + 12, at the aligned address, and no other byte changes. That R15
stores pc + 12 is what R27 says, and the aligned address is MISALIGNED_WORD = rotate (D5, log 8, log 28). -/
def Obligations.StrStoresWord : Prop :=
  ∀ (x : WordOffset) (c : Cond) (p u w : Bool) (rn rd : Reg) (s : State),
    s.mem.wf = true → runs (x.str c p u w rn rd) s = true → fallsThrough s = true →
    wordAccessOk s (transferAddress s p u rn (x.value s)) = true →
    writable s (alignDown (transferAddress s p u rn (x.value s))) 4 = true →
    ∃ t, Machine.exec (x.str c p u w rn rd) s = .next t ∧
      t.mem.word s.platform.bigEndian (alignDown (transferAddress s p u rn (x.value s))) =
        (if rd = 15#4 then s.pc + 12 else s.phys (physReg s.bank rd)) ∧
      OnlyBytes s t (alignDown (transferAddress s p u rn (x.value s))) 4 ∧
      BaseAfter s t p u w rn (x.value s) ∧ Advances s t ∧ t.cpsr = s.cpsr ∧ Frame s t (baseMoved s p w rn)

/-- R153, R157: STRB stores the low byte of Rd, and no other byte changes. It is marked G14. -/
def Obligations.StrbStoresByte : Prop :=
  ∀ (x : WordOffset) (c : Cond) (p u w : Bool) (rn rd : Reg) (s : State),
    s.mem.wf = true → runs (x.strb c p u w rn rd) s = true → fallsThrough s = true →
    writable s (transferAddress s p u rn (x.value s)) 1 = true →
    ∃ t, Machine.exec (x.strb c p u w rn rd) s = .next t ∧
      t.mem.read (transferAddress s p u rn (x.value s)) =
        field (if rd = 15#4 then s.pc + 12 else s.phys (physReg s.bank rd)) 0 8 ∧
      OnlyBytes s t (transferAddress s p u rn (x.value s)) 1 ∧
      BaseAfter s t p u w rn (x.value s) ∧ Advances s t ∧ t.cpsr = s.cpsr ∧ Frame s t (baseMoved s p w rn)

/-! ## Halfword and signed transfer -/

/-- R212, R213, R215, R216: LDRH zero-extends and LDRSH sign-extends the halfword at an even address, LDRSB
sign-extends the byte at any address. They are marked G20. -/
def Obligations.HalfwordAndSignedLoads : Prop :=
  ∀ (x : HalfOffset) (c : Cond) (p u w : Bool) (rn rd : Reg) (s : State), fallsThrough s = true →
    (runs (x.ldrh c p u w rn rd) s = true → (transferAddress s p u rn (x.value s)).getLsbD 0 = false →
      readable s (transferAddress s p u rn (x.value s)) 2 = true →
      ∃ t, Machine.exec (x.ldrh c p u w rn rd) s = .next t ∧
        (t.phys (physReg s.bank rd)).toNat =
          (s.mem.half s.platform.bigEndian (transferAddress s p u rn (x.value s))).toNat ∧
        BaseAfter s t p u w rn (x.value s) ∧ Plain s t (physReg s.bank rd :: baseMoved s p w rn)) ∧
    (runs (x.ldrsh c p u w rn rd) s = true → (transferAddress s p u rn (x.value s)).getLsbD 0 = false →
      readable s (transferAddress s p u rn (x.value s)) 2 = true →
      ∃ t, Machine.exec (x.ldrsh c p u w rn rd) s = .next t ∧
        (t.phys (physReg s.bank rd)).toInt =
          (s.mem.half s.platform.bigEndian (transferAddress s p u rn (x.value s))).toInt ∧
        BaseAfter s t p u w rn (x.value s) ∧ Plain s t (physReg s.bank rd :: baseMoved s p w rn)) ∧
    (runs (x.ldrsb c p u w rn rd) s = true → readable s (transferAddress s p u rn (x.value s)) 1 = true →
      ∃ t, Machine.exec (x.ldrsb c p u w rn rd) s = .next t ∧
        (t.phys (physReg s.bank rd)).toInt = (s.mem.read (transferAddress s p u rn (x.value s))).toInt ∧
        BaseAfter s t p u w rn (x.value s) ∧ Plain s t (physReg s.bank rd :: baseMoved s p w rn))

/-- R212, R214: STRH stores the low halfword of Rd at an even address, and no other byte changes. It is marked G20. -/
def Obligations.HalfwordStore : Prop :=
  ∀ (x : HalfOffset) (c : Cond) (p u w : Bool) (rn rd : Reg) (s : State),
    s.mem.wf = true → runs (x.strh c p u w rn rd) s = true → fallsThrough s = true →
    (transferAddress s p u rn (x.value s)).getLsbD 0 = false →
    writable s (transferAddress s p u rn (x.value s)) 2 = true →
    ∃ t, Machine.exec (x.strh c p u w rn rd) s = .next t ∧
      t.mem.half s.platform.bigEndian (transferAddress s p u rn (x.value s)) =
        field (s.phys (physReg s.bank rd)) 0 16 ∧
      OnlyBytes s t (transferAddress s p u rn (x.value s)) 2 ∧
      BaseAfter s t p u w rn (x.value s) ∧ Advances s t ∧ t.cpsr = s.cpsr ∧ Frame s t (baseMoved s p w rn)

/-- R247, R153, R212, R54: a data access of a single or halfword transfer that the memory system aborts enters Data
Abort with A + 8 in R14_abt; neither Rd nor the base nor a byte of memory changes. What an aborted access leaves is
the spec's decision D25 (log 16), and the link is marked G29; for LDR and STR a misaligned address is taken as
MISALIGNED_WORD = rotate has it (D5, log 8), and the memory system is asked about the aligned address (log 28). -/
def Obligations.DataAbortEntry : Prop :=
  ∀ (x : WordOffset) (y : HalfOffset) (c : Cond) (p u w : Bool) (rn rd : Reg) (s : State),
    (runs (x.ldr c p u w rn rd) s = true → wordAccessOk s (transferAddress s p u rn (x.value s)) = true →
      s.platform.abortsAt .read (alignDown (transferAddress s p u rn (x.value s))) 4 = true →
      ∃ t, Machine.exec (x.ldr c p u w rn rd) s = .next t ∧ DataAborted s t) ∧
    (runs (x.str c p u w rn rd) s = true → wordAccessOk s (transferAddress s p u rn (x.value s)) = true →
      s.platform.abortsAt .write (alignDown (transferAddress s p u rn (x.value s))) 4 = true →
      ∃ t, Machine.exec (x.str c p u w rn rd) s = .next t ∧ DataAborted s t) ∧
    (runs (x.ldrb c p u w rn rd) s = true →
      s.platform.abortsAt .read (transferAddress s p u rn (x.value s)) 1 = true →
      ∃ t, Machine.exec (x.ldrb c p u w rn rd) s = .next t ∧ DataAborted s t) ∧
    (runs (x.strb c p u w rn rd) s = true →
      s.platform.abortsAt .write (transferAddress s p u rn (x.value s)) 1 = true →
      ∃ t, Machine.exec (x.strb c p u w rn rd) s = .next t ∧ DataAborted s t) ∧
    (runs (y.ldrh c p u w rn rd) s = true → (transferAddress s p u rn (y.value s)).getLsbD 0 = false →
      s.platform.abortsAt .read (transferAddress s p u rn (y.value s)) 2 = true →
      ∃ t, Machine.exec (y.ldrh c p u w rn rd) s = .next t ∧ DataAborted s t) ∧
    (runs (y.ldrsh c p u w rn rd) s = true → (transferAddress s p u rn (y.value s)).getLsbD 0 = false →
      s.platform.abortsAt .read (transferAddress s p u rn (y.value s)) 2 = true →
      ∃ t, Machine.exec (y.ldrsh c p u w rn rd) s = .next t ∧ DataAborted s t) ∧
    (runs (y.ldrsb c p u w rn rd) s = true →
      s.platform.abortsAt .read (transferAddress s p u rn (y.value s)) 1 = true →
      ∃ t, Machine.exec (y.ldrsb c p u w rn rd) s = .next t ∧ DataAborted s t) ∧
    (runs (y.strh c p u w rn rd) s = true → (transferAddress s p u rn (y.value s)).getLsbD 0 = false →
      s.platform.abortsAt .write (transferAddress s p u rn (y.value s)) 2 = true →
      ∃ t, Machine.exec (y.strh c p u w rn rd) s = .next t ∧ DataAborted s t)

/-- R53, R54, R55, R61, R63, R173, R201, R202: for every load, store and swap, and for every word of LDM and STM, a
misaligned word access under MISALIGNED_WORD = refuse, a misaligned halfword access and a store into program text are
refused, and an access outside MemMap that no abort claims has no step, nor has such a fetch (R259). These are the
spec's decisions D5, D10 and D12; that a misaligned access let through is asked about at the aligned address is log
28, that Text is asked last is the model's choice (log 31), and so is that an access of which only some bytes lie in
MemMap counts as outside it (log 32). -/
def Obligations.AccessesWithoutStep : Prop :=
  (∀ s : State, reachesFetch s = true → s.platform.abortsAt .fetch s.pc 4 = false →
    s.platform.mapped s.pc 4 = false → Machine.step s = .fault .unmapped) ∧
  (∀ (f : AccessForm) (c : Cond) (s : State), runs (f.instr c) s = true →
    (f.width = 4 → wordAligned (f.address s) = false → s.platform.misaligned = .refuse →
      Machine.exec (f.instr c) s = .refused .misalignedWord) ∧
    (f.width = 2 → (f.address s).getLsbD 0 = true → Machine.exec (f.instr c) s = .refused .misalignedHalf) ∧
    (f.alignedOk s = true → s.platform.abortsAt f.firstKind (f.seen s) f.width = false →
      s.platform.mapped (f.seen s) f.width = false → Machine.exec (f.instr c) s = .fault .unmapped) ∧
    (f.writes = true → f.alignedOk s = true → (f.reads = true → readable s (f.seen s) f.width = true) →
      s.platform.abortsAt .write (f.seen s) f.width = false → s.platform.mapped (f.seen s) f.width = true →
      s.platform.inText (f.seen s) f.width = true → Machine.exec (f.instr c) s = .refused .storeToText)) ∧
  ∀ (m : BlockMode) (c : Cond) (sb w : Bool) (rn : Reg) (list : BitVec 16) (s : State),
    (sb = false ∨ hasSpsr s = true) →
    (runs (m.ldm c sb w rn list) s = true →
      (wordAligned (s.reg rn) = false → s.platform.misaligned = .refuse →
        Machine.exec (m.ldm c sb w rn list) s = .refused .misalignedWord) ∧
      ∀ q : Reg, wordAccessOk s (s.reg rn) = true → list.getLsbD q.toNat = true →
        (∀ r : Reg, r.toNat < q.toNat → list.getLsbD r.toNat = true → readable s (slot s m rn list r) 4 = true) →
        s.platform.abortsAt .read (slot s m rn list q) 4 = false → s.platform.mapped (slot s m rn list q) 4 = false →
        Machine.exec (m.ldm c sb w rn list) s = .fault .unmapped) ∧
    (runs (m.stm c sb w rn list) s = true →
      (wordAligned (s.reg rn) = false → s.platform.misaligned = .refuse →
        Machine.exec (m.stm c sb w rn list) s = .refused .misalignedWord) ∧
      ∀ q : Reg, wordAccessOk s (s.reg rn) = true → list.getLsbD q.toNat = true →
        (∀ r : Reg, r.toNat < q.toNat → list.getLsbD r.toNat = true → writable s (slot s m rn list r) 4 = true) →
        s.platform.abortsAt .write (slot s m rn list q) 4 = false →
        (s.platform.mapped (slot s m rn list q) 4 = false →
          Machine.exec (m.stm c sb w rn list) s = .fault .unmapped) ∧
        (s.platform.mapped (slot s m rn list q) 4 = true → s.platform.inText (slot s m rn list q) 4 = true →
          Machine.exec (m.stm c sb w rn list) s = .refused .storeToText))

/-! ## Block data transfer -/

/-- R172 to R174, R54: LDM without R15 and without `^` loads each listed register from its slot and writes the base
back with W = 1. The aligned addresses of a misaligned base are MISALIGNED_WORD = rotate (D5, log 8, log 28), and the
write-back counts from the base as it was (log 27). -/
def Obligations.LdmLoadsRegisters : Prop :=
  ∀ (m : BlockMode) (c : Cond) (w : Bool) (rn : Reg) (list : BitVec 16) (s : State), list.getLsbD 15 = false →
    runs (m.ldm c false w rn list) s = true → fallsThrough s = true → wordAccessOk s (s.reg rn) = true →
    blockReadable s m rn list →
    ∃ t, Machine.exec (m.ldm c false w rn list) s = .next t ∧
      (∀ r, list.getLsbD r.toNat = true → t.phys (physReg s.bank r) = slotWord s m rn list r) ∧
      (w = true → t.phys (physReg s.bank rn) = blockFinal m (s.reg rn) list) ∧
      Plain s t (listed s.bank list ++ blockBaseMoved s w rn)

/-- R175, R28, R54: LDM with R15 and without `^` also jumps to the word of R15, refused where that is not a multiple
of 4. The refusal is D6, the aligned addresses of a misaligned base are MISALIGNED_WORD = rotate (D5, log 8, log 28),
and the write-back counts from the base as it was (log 27). -/
def Obligations.LdmJumps : Prop :=
  ∀ (m : BlockMode) (c : Cond) (w : Bool) (rn : Reg) (list : BitVec 16) (s : State), list.getLsbD 15 = true →
    runs (m.ldm c false w rn list) s = true → wordAccessOk s (s.reg rn) = true → blockReadable s m rn list →
    (wordAligned (slotWord s m rn list 15#4) = false →
      Machine.exec (m.ldm c false w rn list) s = .refused .misalignedPc) ∧
    (wordAligned (slotWord s m rn list 15#4) = true →
      ∃ t, Machine.exec (m.ldm c false w rn list) s = .next t ∧
        (∀ r, r ≠ 15#4 → list.getLsbD r.toNat = true → t.phys (physReg s.bank r) = slotWord s m rn list r) ∧
        (w = true → t.phys (physReg s.bank rn) = blockFinal m (s.reg rn) list) ∧
        JumpsTo t (slotWord s m rn list 15#4) ∧ t.cpsr = s.cpsr ∧
        Frame s t (listed s.bank list ++ blockBaseMoved s w rn) ∧ SameBytes s t)

/-- R176, R28, R54: LDM with R15 and `^` loads the registers of the mode it started in, jumps, and the CPSR is the
SPSR of that mode; without an SPSR it is refused before a word is loaded (R36), and it is refused where the word of
R15 is not a multiple of 4 and where the SPSR has T = 1 or no mode. The refusals are D3, D6, D16 and D20, their order
is the model's choice (log 23), and the aligned addresses of a misaligned base are MISALIGNED_WORD = rotate (D5, log
8, log 28); the write-back counts from the base as it was (log 27). -/
def Obligations.LdmReturns : Prop :=
  ∀ (m : BlockMode) (c : Cond) (w : Bool) (rn : Reg) (list : BitVec 16) (s : State), list.getLsbD 15 = true →
    runs (m.ldm c true w rn list) s = true →
    (s.spsrOf s.bank = none → Machine.exec (m.ldm c true w rn list) s = .refused .noSpsr) ∧
    ∀ saved, s.spsrOf s.bank = some saved → wordAccessOk s (s.reg rn) = true → blockReadable s m rn list →
      (wordAligned (slotWord s m rn list 15#4) = false →
        Machine.exec (m.ldm c true w rn list) s = .refused .misalignedPc) ∧
      (wordAligned (slotWord s m rn list 15#4) = true → psrT saved = true →
        Machine.exec (m.ldm c true w rn list) s = .refused .thumbState) ∧
      (wordAligned (slotWord s m rn list 15#4) = true → psrT saved = false → Mode.ofBits (psrM saved) = none →
        Machine.exec (m.ldm c true w rn list) s = .refused .illegalMode) ∧
      (wordAligned (slotWord s m rn list 15#4) = true → psrT saved = false → Mode.ofBits (psrM saved) ≠ none →
      ∃ t, Machine.exec (m.ldm c true w rn list) s = .next t ∧
        (∀ r, r ≠ 15#4 → list.getLsbD r.toNat = true → t.phys (physReg s.bank r) = slotWord s m rn list r) ∧
        (w = true → t.phys (physReg s.bank rn) = blockFinal m (s.reg rn) list) ∧
        JumpsTo t (slotWord s m rn list 15#4) ∧ t.cpsr = saved ∧
        Frame s t (listed s.bank list ++ blockBaseMoved s w rn) ∧ SameBytes s t)

/-- R177, R54: LDM with `^` and without R15 loads the User registers, from a mode that has an SPSR; in User and System
mode it is refused. It is marked G15, the refusal is D24, and the aligned addresses of a misaligned base are
MISALIGNED_WORD = rotate (D5, log 8, log 28). -/
def Obligations.LdmUserBank : Prop :=
  ∀ (m : BlockMode) (c : Cond) (rn : Reg) (list : BitVec 16) (s : State), list.getLsbD 15 = false →
    runs (m.ldm c true false rn list) s = true →
    (hasSpsr s = false → Machine.exec (m.ldm c true false rn list) s = .refused .userBankForm) ∧
    (hasSpsr s = true → fallsThrough s = true → wordAccessOk s (s.reg rn) = true → blockReadable s m rn list →
      ∃ t, Machine.exec (m.ldm c true false rn list) s = .next t ∧
        (∀ r, list.getLsbD r.toNat = true → t.phys (physReg .usr r) = slotWord s m rn list r) ∧
        Plain s t (listed .usr list))

/-- R172 to R174, R27, R54: STM without `^` stores each listed register in its slot, R15 as pc + 12, and the base as
it was; no byte outside the slots changes. The aligned addresses of a misaligned base are MISALIGNED_WORD = rotate
(D5, log 8, log 28), and the write-back counts from the base as it was (log 27). -/
def Obligations.StmStoresRegisters : Prop :=
  ∀ (m : BlockMode) (c : Cond) (w : Bool) (rn : Reg) (list : BitVec 16) (s : State),
    s.mem.wf = true → runs (m.stm c false w rn list) s = true → fallsThrough s = true →
    wordAccessOk s (s.reg rn) = true →
    blockWritable s m rn list →
    ∃ t, Machine.exec (m.stm c false w rn list) s = .next t ∧
      (∀ r, list.getLsbD r.toNat = true → t.mem.word s.platform.bigEndian (slot s m rn list r) =
        if r = 15#4 then s.pc + 12 else s.phys (physReg s.bank r)) ∧
      OnlyBytes s t (blockStart m (alignDown (s.reg rn)) list) (4 * count list) ∧
      (w = true → t.phys (physReg s.bank rn) = blockFinal m (s.reg rn) list) ∧
      Advances s t ∧ t.cpsr = s.cpsr ∧ Frame s t (blockBaseMoved s w rn)

/-- R177, R54: STM with `^` stores the User registers, from a mode that has an SPSR; in User and System mode it is
refused. It is marked G15, the refusal is D24, and the aligned addresses of a misaligned base are MISALIGNED_WORD =
rotate (D5, log 8, log 28). -/
def Obligations.StmUserBank : Prop :=
  ∀ (m : BlockMode) (c : Cond) (rn : Reg) (list : BitVec 16) (s : State),
    runs (m.stm c true false rn list) s = true →
    (hasSpsr s = false → Machine.exec (m.stm c true false rn list) s = .refused .userBankForm) ∧
    (hasSpsr s = true → s.mem.wf = true → fallsThrough s = true → wordAccessOk s (s.reg rn) = true →
      blockWritable s m rn list →
      ∃ t, Machine.exec (m.stm c true false rn list) s = .next t ∧
        (∀ r, list.getLsbD r.toNat = true → t.mem.word s.platform.bigEndian (slot s m rn list r) =
          if r = 15#4 then s.pc + 12 else s.phys (physReg .usr r)) ∧
        OnlyBytes s t (blockStart m (alignDown (s.reg rn)) list) (4 * count list) ∧
        Advances s t ∧ t.cpsr = s.cpsr ∧ Frame s t [])

/-- R173, R177, R247, R54: where one of the words of an LDM or STM is aborted and those below it are not, Data Abort
is entered, with `^` as without, from a mode that has an SPSR where `^` is there. For LDM no register of the list, no
base and no byte changes; for STM the words below have been written, with `^` from the User registers, no other byte,
and the base is not. What an aborted access leaves is the spec's decision D25 (log 16), and the link is marked G29;
the aligned addresses of a misaligned base are MISALIGNED_WORD = rotate (D5, log 8), and the memory system is asked
about them (log 28). -/
def Obligations.BlockAborts : Prop :=
  ∀ (m : BlockMode) (c : Cond) (sb w : Bool) (rn : Reg) (list : BitVec 16) (s : State) (q : Reg),
    (sb = false ∨ hasSpsr s = true) → wordAccessOk s (s.reg rn) = true → list.getLsbD q.toNat = true →
    (runs (m.ldm c sb w rn list) s = true → s.platform.abortsAt .read (slot s m rn list q) 4 = true →
      (∀ r : Reg, r.toNat < q.toNat → list.getLsbD r.toNat = true → readable s (slot s m rn list r) 4 = true) →
      ∃ t, Machine.exec (m.ldm c sb w rn list) s = .next t ∧ DataAborted s t) ∧
    (s.mem.wf = true → runs (m.stm c sb w rn list) s = true →
      s.platform.abortsAt .write (slot s m rn list q) 4 = true →
      (∀ r : Reg, r.toNat < q.toNat → list.getLsbD r.toNat = true → writable s (slot s m rn list r) 4 = true) →
      ∃ t, Machine.exec (m.stm c sb w rn list) s = .next t ∧
        EnteredBesideMemory s t .abt 0b10111#5 (s.pc + 8) 0x00000010#32 false ∧
        (∀ r : Reg, r.toNat < q.toNat → list.getLsbD r.toNat = true →
          t.mem.word s.platform.bigEndian (slot s m rn list r) =
            s.phys (physReg (if sb then .usr else s.bank) r)) ∧
        OnlyBytes s t (blockStart m (alignDown (s.reg rn)) list) (4 * rank list q))

/-! ## Multiply -/

/-- R191 to R193: MUL and MLA; with S, N and Z say what the result is, V is kept, and C is not stated (a free value).
They are marked G16, and that C is free is D28 (log 15). -/
def Obligations.MultiplyResult : Prop :=
  ∀ (c : Cond) (sb : Bool) (rd rn rs rm : Reg) (s : State), fallsThrough s = true →
    (runs (.mul c sb rd rs rm) s = true →
      ∃ t, Machine.exec (.mul c sb rd rs rm) s = .next t ∧
        (t.phys (physReg s.bank rd)).toNat =
          (s.phys (physReg s.bank rm)).toNat * (s.phys (physReg s.bank rs)).toNat % 4294967296 ∧
        MultiplyFrame s t sb (t.phys (physReg s.bank rd)).toNat 2147483648 [physReg s.bank rd] ∧
        psrV t.cpsr = psrV s.cpsr) ∧
    (runs (.mla c sb rd rn rs rm) s = true →
      ∃ t, Machine.exec (.mla c sb rd rn rs rm) s = .next t ∧
        (t.phys (physReg s.bank rd)).toNat =
          ((s.phys (physReg s.bank rm)).toNat * (s.phys (physReg s.bank rs)).toNat +
            (s.phys (physReg s.bank rn)).toNat) % 4294967296 ∧
        MultiplyFrame s t sb (t.phys (physReg s.bank rd)).toNat 2147483648 [physReg s.bank rd] ∧
        psrV t.cpsr = psrV s.cpsr)

/-- R194 to R196: UMULL and UMLAL; with S, N and Z say what the 64-bit result is, and C and V are not stated (free
values). They are marked G17, and that C and V are free is D28 (log 15). -/
def Obligations.UnsignedLongMultiply : Prop :=
  ∀ (c : Cond) (sb : Bool) (hi lo rs rm : Reg) (s : State), fallsThrough s = true →
    (runs (.umull c sb hi lo rs rm) s = true →
      ∃ t, Machine.exec (.umull c sb hi lo rs rm) s = .next t ∧
        pairOf t s.bank hi lo =
          (s.phys (physReg s.bank rm)).toNat * (s.phys (physReg s.bank rs)).toNat ∧
        MultiplyFrame s t sb (pairOf t s.bank hi lo) 9223372036854775808 [physReg s.bank hi, physReg s.bank lo]) ∧
    (runs (.umlal c sb hi lo rs rm) s = true →
      ∃ t, Machine.exec (.umlal c sb hi lo rs rm) s = .next t ∧
        pairOf t s.bank hi lo =
          ((s.phys (physReg s.bank rm)).toNat * (s.phys (physReg s.bank rs)).toNat + pairOf s s.bank hi lo) %
            18446744073709551616 ∧
        MultiplyFrame s t sb (pairOf t s.bank hi lo) 9223372036854775808 [physReg s.bank hi, physReg s.bank lo])

/-- R194, R197, R198: SMULL and SMLAL, the 64-bit result in two's complement. They are marked G17, and that C and V
are free is D28 (log 15). -/
def Obligations.SignedLongMultiply : Prop :=
  ∀ (c : Cond) (sb : Bool) (hi lo rs rm : Reg) (s : State), fallsThrough s = true →
    (runs (.smull c sb hi lo rs rm) s = true →
      ∃ t, Machine.exec (.smull c sb hi lo rs rm) s = .next t ∧
        (pairOf t s.bank hi lo : Int) =
          (s.phys (physReg s.bank rm)).toInt * (s.phys (physReg s.bank rs)).toInt % 18446744073709551616 ∧
        MultiplyFrame s t sb (pairOf t s.bank hi lo) 9223372036854775808 [physReg s.bank hi, physReg s.bank lo]) ∧
    (runs (.smlal c sb hi lo rs rm) s = true →
      ∃ t, Machine.exec (.smlal c sb hi lo rs rm) s = .next t ∧
        (pairOf t s.bank hi lo : Int) =
          ((s.phys (physReg s.bank rm)).toInt * (s.phys (physReg s.bank rs)).toInt + pairOf s s.bank hi lo) %
            18446744073709551616 ∧
        MultiplyFrame s t sb (pairOf t s.bank hi lo) 9223372036854775808 [physReg s.bank hi, physReg s.bank lo])

/-! ## Swap -/

/-- R201, R202, R54: SWP reads the word at Rn into Rd, as LDR reads it, and stores Rm, as it was before, in its place;
SWPB does the same with a byte, zero-extended into Rd. They are marked G18, and the aligned address and the rotation
of a misaligned SWP are MISALIGNED_WORD = rotate (D5, log 8, log 28). -/
def Obligations.SwapExchanges : Prop :=
  ∀ (c : Cond) (rn rd rm : Reg) (s : State), s.mem.wf = true → fallsThrough s = true →
    (runs (.swp c rn rd rm) s = true → wordAccessOk s (s.phys (physReg s.bank rn)) = true →
      readable s (alignDown (s.phys (physReg s.bank rn))) 4 = true →
      writable s (alignDown (s.phys (physReg s.bank rn))) 4 = true →
      ∃ t, Machine.exec (.swp c rn rd rm) s = .next t ∧
        t.phys (physReg s.bank rd) = loadedWord s (s.phys (physReg s.bank rn)) ∧
        t.mem.word s.platform.bigEndian (alignDown (s.phys (physReg s.bank rn))) = s.phys (physReg s.bank rm) ∧
        OnlyBytes s t (alignDown (s.phys (physReg s.bank rn))) 4 ∧ Advances s t ∧ t.cpsr = s.cpsr ∧
        Frame s t [physReg s.bank rd]) ∧
    (runs (.swpb c rn rd rm) s = true → readable s (s.phys (physReg s.bank rn)) 1 = true →
      writable s (s.phys (physReg s.bank rn)) 1 = true →
      ∃ t, Machine.exec (.swpb c rn rd rm) s = .next t ∧
        (t.phys (physReg s.bank rd)).toNat = (s.mem.read (s.phys (physReg s.bank rn))).toNat ∧
        t.mem.read (s.phys (physReg s.bank rn)) = field (s.phys (physReg s.bank rm)) 0 8 ∧
        OnlyBytes s t (s.phys (physReg s.bank rn)) 1 ∧ Advances s t ∧ t.cpsr = s.cpsr ∧
        Frame s t [physReg s.bank rd])

/-- R201, R202, R247, R54: a swap whose read or write is aborted enters Data Abort; neither Rd nor memory changes.
What an aborted access leaves is the spec's decision D25 (log 16), and the link is marked G29; for SWP a misaligned
address is taken as MISALIGNED_WORD = rotate has it (D5, log 8), and the memory system is asked about the aligned
address (log 28). -/
def Obligations.SwapAborts : Prop :=
  ∀ (c : Cond) (rn rd rm : Reg) (s : State),
    (runs (.swp c rn rd rm) s = true → wordAccessOk s (s.phys (physReg s.bank rn)) = true →
      (s.platform.abortsAt .read (alignDown (s.phys (physReg s.bank rn))) 4 = true ∨
        (readable s (alignDown (s.phys (physReg s.bank rn))) 4 = true ∧
          s.platform.abortsAt .write (alignDown (s.phys (physReg s.bank rn))) 4 = true)) →
      ∃ t, Machine.exec (.swp c rn rd rm) s = .next t ∧ DataAborted s t) ∧
    (runs (.swpb c rn rd rm) s = true →
      (s.platform.abortsAt .read (s.phys (physReg s.bank rn)) 1 = true ∨
        (readable s (s.phys (physReg s.bank rn)) 1 = true ∧
          s.platform.abortsAt .write (s.phys (physReg s.bank rn)) 1 = true)) →
      ∃ t, Machine.exec (.swpb c rn rd rm) s = .next t ∧ DataAborted s t)

/-! ## Exceptions -/

/-- R221 to R224, R227 to R229, R245: the five coprocessor instructions and the undefined instruction take the
Undefined Instruction exception. R225, R248: SWI takes the Software Interrupt exception, whatever its 24-bit field.
That no coprocessor is attached is D9, and the links are marked G22 and G28. -/
def Obligations.InstructionsThatTrap : Prop :=
  (∀ (i : Instr) (s : State),
    ((∃ c p u n w rn crd cp off, i = .ldc c p u n w rn crd cp off) ∨
      (∃ c p u n w rn crd cp off, i = .stc c p u n w rn crd cp off) ∨
      (∃ c opc crn crd cp info crm, i = .cdp c opc crn crd cp info crm) ∨
      (∃ c opc crn rd cp info crm, i = .mrc c opc crn rd cp info crm) ∨
      (∃ c opc crn rd cp info crm, i = .mcr c opc crn rd cp info crm) ∨
      (∃ c hi lo, i = .undefined c hi lo)) →
    condPassed i.cond s.cpsr = true →
    ∃ t, Machine.exec i s = .next t ∧ Entered s t .und 0b11011#5 (s.pc + 4) 0x00000004#32 false) ∧
  (∀ (c : Cond) (comment : BitVec 24) (s : State), condPassed c s.cpsr = true →
    ∃ t, Machine.exec (.swi c comment) s = .next t ∧
      Entered s t .svc 0b10011#5 (s.pc + 4) 0x00000008#32 false)

/-- R253, R255: from the state an exception entry leaves, the return instruction the spec names for it restores the
CPSR and goes where the table of R253 says, and changes no register and no byte: MOVS pc, r14 after Undefined
Instruction and Software Interrupt to the instruction after, SUBS pc, r14, #4 after Prefetch Abort to the aborted
instruction, SUBS pc, r14, #8 after Data Abort to the aborted instruction and SUBS pc, r14, #4 to the one after it, SUBS
pc, r14, #4 after IRQ and FIQ to the displaced instruction; and SUBS with any constant goes to the link less the
constant. The links but that of IRQ are marked G22, G23, G28 and G29, and the entry sequence of the exceptions but Reset
and IRQ is the spec's generalisation (D18). -/
def Obligations.ReturnRestores : Prop :=
  (∀ s t : State, psrT s.cpsr = false → Mode.ofBits (psrM s.cpsr) ≠ none → wordAligned s.pc = true →
    (Entered s t .und 0b11011#5 (s.pc + 4) 0x00000004#32 false → ReturnsTo s t movsPcR14 (s.pc + 4)) ∧
    (Entered s t .svc 0b10011#5 (s.pc + 4) 0x00000008#32 false → ReturnsTo s t movsPcR14 (s.pc + 4)) ∧
    (Entered s t .abt 0b10111#5 (s.pc + 4) 0x0000000C#32 false → ReturnsTo s t (subsPcR14 4#8) s.pc) ∧
    (EnteredBesideMemory s t .abt 0b10111#5 (s.pc + 8) 0x00000010#32 false →
      ReturnsTo s t (subsPcR14 8#8) s.pc ∧ ReturnsTo s t (subsPcR14 4#8) (s.pc + 4)) ∧
    (Entered s t .irq 0b10010#5 (s.pc + 4) 0x00000018#32 false → ReturnsTo s t (subsPcR14 4#8) s.pc) ∧
    (Entered s t .fiq 0b10001#5 (s.pc + 4) 0x0000001C#32 true → ReturnsTo s t (subsPcR14 4#8) s.pc)) ∧
  ∀ (s t : State) (bank : Bank) (mode : BitVec 5) (link vector : Word) (masksFiq : Bool) (imm8 : BitVec 8),
    Entered s t bank mode link vector masksFiq → bankOf mode = bank →
    psrT s.cpsr = false → Mode.ofBits (psrM s.cpsr) ≠ none → wordAligned (link - imm8.setWidth 32) = true →
    ReturnsTo s t (subsPcR14 imm8) (link - imm8.setWidth 32)

/-! ## Every step -/

/-- Every step keeps the invariant: memory canonical, pc a multiple of 4 (R26, R56), T = 0 (R33), M a mode (R34),
reserved bits 0 (R35). The reserved bits and the refusals behind it are the spec's decisions D3, D6, D19 and D20, the
canonical form is the model's (log 5), and so is what a reset event leaves of the SPSRs and of memory (log 13). -/
def Obligations.StepKeepsInvariant : Prop :=
  ∀ s t : State, s.inv = true → Machine.step s = .next t → t.inv = true

/-- R63, R42, R288, R41 (b): no step changes program text or a parameter of the machine. A step leaves nothing fetched
ahead, or it goes on to pc + 4 with the words for it and the one after it as they were fetched before its own effect; so
where no word of program text fetched ahead is stale before a step, none is after it, and no store into the words that
follow is met in program text. Immutable text is the spec's decision D12, the words fetched ahead are marked G30 (log
33); that program text outlives a reset event too is the model's choice (log 13), and so is that a reset is an event at
a boundary (logs 12 and 30). -/
def Obligations.TextIsImmutable : Prop :=
  ∀ s t : State, Machine.step s = .next t →
    t.platform = s.platform ∧ (∀ a, s.platform.isText a = true → t.mem.read a = s.mem.read a) ∧
    (t.prefetched = none ∨ (t.pc = s.pc + 4 ∧ t.prefetched = s.fetchAhead.prefetched)) ∧
    (TextFresh s → TextFresh t)

/-- R261, R263: an instruction run in User mode leaves the mode, the masks, the SPSRs and the registers of the other
modes as they are, or it takes an exception, which saves the CPSR as it was. That MSR ignores the control byte is
marked G25. -/
def Obligations.UserModeIsConfined : Prop :=
  ∀ (i : Instr) (s t : State), psrM s.cpsr = 0b10000#5 → Machine.exec i s = .next t →
    (field t.cpsr 0 28 = field s.cpsr 0 28 ∧ SameSpsrs s t ∧
      ∀ p, (∀ r : Reg, p ≠ physReg .usr r) → t.phys p = s.phys p) ∨
    (t.pc = 0x00000004#32 ∧ t.spsrOf .und = some s.cpsr ∧ psrM t.cpsr = 0b11011#5) ∨
    (t.pc = 0x00000008#32 ∧ t.spsrOf .svc = some s.cpsr ∧ psrM t.cpsr = 0b10011#5) ∨
    (t.pc = 0x00000010#32 ∧ t.spsrOf .abt = some s.cpsr ∧ psrM t.cpsr = 0b10111#5)

/-- R263, R24, R244, R256: a step changes the mode only by a reset, by entering an exception, which saves the CPSR in the
SPSR of the mode entered, by an exception return, which restores the CPSR from the SPSR of the mode left, or by MSR with
the control field outside User mode. User mode has no SPSR (R23), so it is left by a reset or an exception alone; System
mode has none either. An entry and a return are told by the SPSR saved or restored. That a reset changes the mode is
R244, as an event at a boundary D29, and the model's choice (logs 12 and 30); that MSR in User mode does not is marked
G25. -/
def Obligations.ModeChanges : Prop :=
  ∀ s t : State, Machine.step s = .next t → psrM t.cpsr ≠ psrM s.cpsr →
    s.lines.reset = true ∨
    t.spsrOf (bankOf (psrM t.cpsr)) = some s.cpsr ∨
    s.spsrOf s.bank = some t.cpsr ∨
    (psrM s.cpsr ≠ 0b10000#5 ∧ ∃ (x : MsrOperand) (c : Cond) (fields : BitVec 4),
      nextInstr s = .ok (x.instr c false fields) ∧ fields.getLsbD 0 = true ∧ psrM t.cpsr = psrM (x.value s))
end

