-- ==== Sys2Proof/Laws/State.lean ====
section
/-! SUPPORT. One lemma per field per update of the state, so that no proof unfolds a record update; what a written
register reads back as. -/

namespace Sys2Proof.Machine

/-! ## setPhys -/

@[simp] theorem State.setPhys_pc (s : State) (p : PhysReg) (v : Word) : (s.setPhys p v).pc = s.pc := rfl
@[simp] theorem State.setPhys_prefetched (s : State) (p : PhysReg) (v : Word) : (s.setPhys p v).prefetched = s.prefetched := rfl
@[simp] theorem State.setPhys_cpsr (s : State) (p : PhysReg) (v : Word) : (s.setPhys p v).cpsr = s.cpsr := rfl
@[simp] theorem State.setPhys_spsrFiq (s : State) (p : PhysReg) (v : Word) : (s.setPhys p v).spsrFiq = s.spsrFiq := rfl
@[simp] theorem State.setPhys_spsrSvc (s : State) (p : PhysReg) (v : Word) : (s.setPhys p v).spsrSvc = s.spsrSvc := rfl
@[simp] theorem State.setPhys_spsrAbt (s : State) (p : PhysReg) (v : Word) : (s.setPhys p v).spsrAbt = s.spsrAbt := rfl
@[simp] theorem State.setPhys_spsrIrq (s : State) (p : PhysReg) (v : Word) : (s.setPhys p v).spsrIrq = s.spsrIrq := rfl
@[simp] theorem State.setPhys_spsrUnd (s : State) (p : PhysReg) (v : Word) : (s.setPhys p v).spsrUnd = s.spsrUnd := rfl
@[simp] theorem State.setPhys_mem (s : State) (p : PhysReg) (v : Word) : (s.setPhys p v).mem = s.mem := rfl
@[simp] theorem State.setPhys_lines (s : State) (p : PhysReg) (v : Word) : (s.setPhys p v).lines = s.lines := rfl
@[simp] theorem State.setPhys_upcoming (s : State) (p : PhysReg) (v : Word) : (s.setPhys p v).upcoming = s.upcoming := rfl
@[simp] theorem State.setPhys_platform (s : State) (p : PhysReg) (v : Word) : (s.setPhys p v).platform = s.platform := rfl
@[simp] theorem State.setPhys_draws (s : State) (p : PhysReg) (v : Word) : (s.setPhys p v).draws = s.draws := rfl
@[simp] theorem State.setPhys_bank (s : State) (p : PhysReg) (v : Word) : (s.setPhys p v).bank = s.bank := rfl
@[simp] theorem State.setPhys_spsrOf (s : State) (p : PhysReg) (v : Word) (b : Bank) :
    (s.setPhys p v).spsrOf b = s.spsrOf b := rfl

/-! ## setReg -/

@[simp] theorem State.setReg_pc (s : State) (r : Reg) (v : Word) : (s.setReg r v).pc = s.pc := rfl
@[simp] theorem State.setReg_prefetched (s : State) (r : Reg) (v : Word) : (s.setReg r v).prefetched = s.prefetched := rfl
@[simp] theorem State.setReg_cpsr (s : State) (r : Reg) (v : Word) : (s.setReg r v).cpsr = s.cpsr := rfl
@[simp] theorem State.setReg_spsrFiq (s : State) (r : Reg) (v : Word) : (s.setReg r v).spsrFiq = s.spsrFiq := rfl
@[simp] theorem State.setReg_spsrSvc (s : State) (r : Reg) (v : Word) : (s.setReg r v).spsrSvc = s.spsrSvc := rfl
@[simp] theorem State.setReg_spsrAbt (s : State) (r : Reg) (v : Word) : (s.setReg r v).spsrAbt = s.spsrAbt := rfl
@[simp] theorem State.setReg_spsrIrq (s : State) (r : Reg) (v : Word) : (s.setReg r v).spsrIrq = s.spsrIrq := rfl
@[simp] theorem State.setReg_spsrUnd (s : State) (r : Reg) (v : Word) : (s.setReg r v).spsrUnd = s.spsrUnd := rfl
@[simp] theorem State.setReg_mem (s : State) (r : Reg) (v : Word) : (s.setReg r v).mem = s.mem := rfl
@[simp] theorem State.setReg_lines (s : State) (r : Reg) (v : Word) : (s.setReg r v).lines = s.lines := rfl
@[simp] theorem State.setReg_upcoming (s : State) (r : Reg) (v : Word) : (s.setReg r v).upcoming = s.upcoming := rfl
@[simp] theorem State.setReg_platform (s : State) (r : Reg) (v : Word) : (s.setReg r v).platform = s.platform := rfl
@[simp] theorem State.setReg_draws (s : State) (r : Reg) (v : Word) : (s.setReg r v).draws = s.draws := rfl
@[simp] theorem State.setReg_bank (s : State) (r : Reg) (v : Word) : (s.setReg r v).bank = s.bank := rfl
@[simp] theorem State.setReg_spsrOf (s : State) (r : Reg) (v : Word) (b : Bank) : (s.setReg r v).spsrOf b = s.spsrOf b := rfl

/-! ## setUserReg -/

@[simp] theorem State.setUserReg_pc (s : State) (r : Reg) (v : Word) : (s.setUserReg r v).pc = s.pc := rfl
@[simp] theorem State.setUserReg_prefetched (s : State) (r : Reg) (v : Word) : (s.setUserReg r v).prefetched = s.prefetched := rfl
@[simp] theorem State.setUserReg_cpsr (s : State) (r : Reg) (v : Word) : (s.setUserReg r v).cpsr = s.cpsr := rfl
@[simp] theorem State.setUserReg_spsrFiq (s : State) (r : Reg) (v : Word) : (s.setUserReg r v).spsrFiq = s.spsrFiq := rfl
@[simp] theorem State.setUserReg_spsrSvc (s : State) (r : Reg) (v : Word) : (s.setUserReg r v).spsrSvc = s.spsrSvc := rfl
@[simp] theorem State.setUserReg_spsrAbt (s : State) (r : Reg) (v : Word) : (s.setUserReg r v).spsrAbt = s.spsrAbt := rfl
@[simp] theorem State.setUserReg_spsrIrq (s : State) (r : Reg) (v : Word) : (s.setUserReg r v).spsrIrq = s.spsrIrq := rfl
@[simp] theorem State.setUserReg_spsrUnd (s : State) (r : Reg) (v : Word) : (s.setUserReg r v).spsrUnd = s.spsrUnd := rfl
@[simp] theorem State.setUserReg_mem (s : State) (r : Reg) (v : Word) : (s.setUserReg r v).mem = s.mem := rfl
@[simp] theorem State.setUserReg_lines (s : State) (r : Reg) (v : Word) : (s.setUserReg r v).lines = s.lines := rfl
@[simp] theorem State.setUserReg_upcoming (s : State) (r : Reg) (v : Word) : (s.setUserReg r v).upcoming = s.upcoming := rfl
@[simp] theorem State.setUserReg_platform (s : State) (r : Reg) (v : Word) : (s.setUserReg r v).platform = s.platform := rfl
@[simp] theorem State.setUserReg_draws (s : State) (r : Reg) (v : Word) : (s.setUserReg r v).draws = s.draws := rfl
@[simp] theorem State.setUserReg_bank (s : State) (r : Reg) (v : Word) : (s.setUserReg r v).bank = s.bank := rfl
@[simp] theorem State.setUserReg_spsrOf (s : State) (r : Reg) (v : Word) (b : Bank) : (s.setUserReg r v).spsrOf b = s.spsrOf b := rfl

/-! ## setFlags -/

@[simp] theorem State.setFlags_pc (s : State) (f : Nzcv) : (s.setFlags f).pc = s.pc := rfl
@[simp] theorem State.setFlags_prefetched (s : State) (f : Nzcv) : (s.setFlags f).prefetched = s.prefetched := rfl
@[simp] theorem State.setFlags_spsrFiq (s : State) (f : Nzcv) : (s.setFlags f).spsrFiq = s.spsrFiq := rfl
@[simp] theorem State.setFlags_spsrSvc (s : State) (f : Nzcv) : (s.setFlags f).spsrSvc = s.spsrSvc := rfl
@[simp] theorem State.setFlags_spsrAbt (s : State) (f : Nzcv) : (s.setFlags f).spsrAbt = s.spsrAbt := rfl
@[simp] theorem State.setFlags_spsrIrq (s : State) (f : Nzcv) : (s.setFlags f).spsrIrq = s.spsrIrq := rfl
@[simp] theorem State.setFlags_spsrUnd (s : State) (f : Nzcv) : (s.setFlags f).spsrUnd = s.spsrUnd := rfl
@[simp] theorem State.setFlags_mem (s : State) (f : Nzcv) : (s.setFlags f).mem = s.mem := rfl
@[simp] theorem State.setFlags_lines (s : State) (f : Nzcv) : (s.setFlags f).lines = s.lines := rfl
@[simp] theorem State.setFlags_upcoming (s : State) (f : Nzcv) : (s.setFlags f).upcoming = s.upcoming := rfl
@[simp] theorem State.setFlags_platform (s : State) (f : Nzcv) : (s.setFlags f).platform = s.platform := rfl
@[simp] theorem State.setFlags_draws (s : State) (f : Nzcv) : (s.setFlags f).draws = s.draws := rfl
@[simp] theorem State.setFlags_cpsr (s : State) (f : Nzcv) : (s.setFlags f).cpsr = psrWithFlags s.cpsr f := rfl
@[simp] theorem State.setFlags_phys (s : State) (f : Nzcv) (q : PhysReg) : (s.setFlags f).phys q = s.phys q := rfl
@[simp] theorem State.setFlags_spsrOf (s : State) (f : Nzcv) (k : Bank) : (s.setFlags f).spsrOf k = s.spsrOf k := rfl

/-! ## drew -/

@[simp] theorem State.drew_pc (s : State) (n : Nat) : (s.drew n).pc = s.pc := rfl
@[simp] theorem State.drew_prefetched (s : State) (n : Nat) : (s.drew n).prefetched = s.prefetched := rfl
@[simp] theorem State.drew_cpsr (s : State) (n : Nat) : (s.drew n).cpsr = s.cpsr := rfl
@[simp] theorem State.drew_spsrFiq (s : State) (n : Nat) : (s.drew n).spsrFiq = s.spsrFiq := rfl
@[simp] theorem State.drew_spsrSvc (s : State) (n : Nat) : (s.drew n).spsrSvc = s.spsrSvc := rfl
@[simp] theorem State.drew_spsrAbt (s : State) (n : Nat) : (s.drew n).spsrAbt = s.spsrAbt := rfl
@[simp] theorem State.drew_spsrIrq (s : State) (n : Nat) : (s.drew n).spsrIrq = s.spsrIrq := rfl
@[simp] theorem State.drew_spsrUnd (s : State) (n : Nat) : (s.drew n).spsrUnd = s.spsrUnd := rfl
@[simp] theorem State.drew_mem (s : State) (n : Nat) : (s.drew n).mem = s.mem := rfl
@[simp] theorem State.drew_lines (s : State) (n : Nat) : (s.drew n).lines = s.lines := rfl
@[simp] theorem State.drew_upcoming (s : State) (n : Nat) : (s.drew n).upcoming = s.upcoming := rfl
@[simp] theorem State.drew_platform (s : State) (n : Nat) : (s.drew n).platform = s.platform := rfl
@[simp] theorem State.drew_phys (s : State) (n : Nat) (q : PhysReg) : (s.drew n).phys q = s.phys q := rfl
@[simp] theorem State.drew_draws (s : State) (n : Nat) : (s.drew n).draws = s.draws + n := rfl
@[simp] theorem State.drew_bank (s : State) (n : Nat) : (s.drew n).bank = s.bank := rfl
@[simp] theorem State.drew_spsrOf (s : State) (n : Nat) (k : Bank) : (s.drew n).spsrOf k = s.spsrOf k := rfl

/-! ## setSpsr -/

@[simp] theorem State.setSpsr_pc (s : State) (b : Bank) (v : Word) : (s.setSpsr b v).pc = s.pc := by cases b <;> rfl
@[simp] theorem State.setSpsr_prefetched (s : State) (b : Bank) (v : Word) : (s.setSpsr b v).prefetched = s.prefetched := by cases b <;> rfl
@[simp] theorem State.setSpsr_cpsr (s : State) (b : Bank) (v : Word) : (s.setSpsr b v).cpsr = s.cpsr := by cases b <;> rfl
@[simp] theorem State.setSpsr_mem (s : State) (b : Bank) (v : Word) : (s.setSpsr b v).mem = s.mem := by cases b <;> rfl
@[simp] theorem State.setSpsr_lines (s : State) (b : Bank) (v : Word) : (s.setSpsr b v).lines = s.lines := by cases b <;> rfl
@[simp] theorem State.setSpsr_upcoming (s : State) (b : Bank) (v : Word) : (s.setSpsr b v).upcoming = s.upcoming := by cases b <;> rfl
@[simp] theorem State.setSpsr_platform (s : State) (b : Bank) (v : Word) : (s.setSpsr b v).platform = s.platform := by cases b <;> rfl
@[simp] theorem State.setSpsr_draws (s : State) (b : Bank) (v : Word) : (s.setSpsr b v).draws = s.draws := by cases b <;> rfl
@[simp] theorem State.setSpsr_phys (s : State) (b : Bank) (v : Word) (q : PhysReg) :
    (s.setSpsr b v).phys q = s.phys q := by cases b <;> rfl
@[simp] theorem State.setSpsr_regs (s : State) (b : Bank) (v : Word) : (s.setSpsr b v).regs = s.regs := by cases b <;> rfl
theorem State.setSpsr_spsrOf_self (s : State) (b : Bank) (v : Word) (h : b ≠ .usr) :
    (s.setSpsr b v).spsrOf b = some v := by cases b <;> first | rfl | exact absurd rfl h
theorem State.setSpsr_spsrOf_ne (s : State) (b k : Bank) (v : Word) (h : k ≠ b) :
    (s.setSpsr b v).spsrOf k = s.spsrOf k := by cases b <;> cases k <;> first | rfl | exact absurd rfl h

/-! ## setPc, jump, setCpsr, setMem -/

@[simp] theorem State.setPc_regs (s : State) (v : Word) : (s.setPc v).regs = s.regs := rfl
@[simp] theorem State.setPc_pc (s : State) (v : Word) : (s.setPc v).pc = v := rfl
@[simp] theorem State.setPc_prefetched (s : State) (v : Word) : (s.setPc v).prefetched = s.prefetched := rfl
@[simp] theorem State.setPc_cpsr (s : State) (v : Word) : (s.setPc v).cpsr = s.cpsr := rfl
@[simp] theorem State.setPc_spsrFiq (s : State) (v : Word) : (s.setPc v).spsrFiq = s.spsrFiq := rfl
@[simp] theorem State.setPc_spsrSvc (s : State) (v : Word) : (s.setPc v).spsrSvc = s.spsrSvc := rfl
@[simp] theorem State.setPc_spsrAbt (s : State) (v : Word) : (s.setPc v).spsrAbt = s.spsrAbt := rfl
@[simp] theorem State.setPc_spsrIrq (s : State) (v : Word) : (s.setPc v).spsrIrq = s.spsrIrq := rfl
@[simp] theorem State.setPc_spsrUnd (s : State) (v : Word) : (s.setPc v).spsrUnd = s.spsrUnd := rfl
@[simp] theorem State.setPc_mem (s : State) (v : Word) : (s.setPc v).mem = s.mem := rfl
@[simp] theorem State.setPc_lines (s : State) (v : Word) : (s.setPc v).lines = s.lines := rfl
@[simp] theorem State.setPc_upcoming (s : State) (v : Word) : (s.setPc v).upcoming = s.upcoming := rfl
@[simp] theorem State.setPc_platform (s : State) (v : Word) : (s.setPc v).platform = s.platform := rfl
@[simp] theorem State.setPc_draws (s : State) (v : Word) : (s.setPc v).draws = s.draws := rfl
@[simp] theorem State.setPc_phys (s : State) (v : Word) (q : PhysReg) : (s.setPc v).phys q = s.phys q := rfl
@[simp] theorem State.setPc_spsrOf (s : State) (v : Word) (b : Bank) : (s.setPc v).spsrOf b = s.spsrOf b := rfl
@[simp] theorem State.setPc_bank (s : State) (v : Word) : (s.setPc v).bank = s.bank := rfl

@[simp] theorem State.jump_regs (s : State) (v : Word) : (s.jump v).regs = s.regs := rfl
@[simp] theorem State.jump_pc (s : State) (v : Word) : (s.jump v).pc = v := rfl
@[simp] theorem State.jump_prefetched (s : State) (v : Word) : (s.jump v).prefetched = none := rfl
@[simp] theorem State.jump_cpsr (s : State) (v : Word) : (s.jump v).cpsr = s.cpsr := rfl
@[simp] theorem State.jump_spsrFiq (s : State) (v : Word) : (s.jump v).spsrFiq = s.spsrFiq := rfl
@[simp] theorem State.jump_spsrSvc (s : State) (v : Word) : (s.jump v).spsrSvc = s.spsrSvc := rfl
@[simp] theorem State.jump_spsrAbt (s : State) (v : Word) : (s.jump v).spsrAbt = s.spsrAbt := rfl
@[simp] theorem State.jump_spsrIrq (s : State) (v : Word) : (s.jump v).spsrIrq = s.spsrIrq := rfl
@[simp] theorem State.jump_spsrUnd (s : State) (v : Word) : (s.jump v).spsrUnd = s.spsrUnd := rfl
@[simp] theorem State.jump_mem (s : State) (v : Word) : (s.jump v).mem = s.mem := rfl
@[simp] theorem State.jump_lines (s : State) (v : Word) : (s.jump v).lines = s.lines := rfl
@[simp] theorem State.jump_upcoming (s : State) (v : Word) : (s.jump v).upcoming = s.upcoming := rfl
@[simp] theorem State.jump_platform (s : State) (v : Word) : (s.jump v).platform = s.platform := rfl
@[simp] theorem State.jump_draws (s : State) (v : Word) : (s.jump v).draws = s.draws := rfl
@[simp] theorem State.jump_phys (s : State) (v : Word) (q : PhysReg) : (s.jump v).phys q = s.phys q := rfl
@[simp] theorem State.jump_spsrOf (s : State) (v : Word) (b : Bank) : (s.jump v).spsrOf b = s.spsrOf b := rfl
@[simp] theorem State.jump_bank (s : State) (v : Word) : (s.jump v).bank = s.bank := rfl

@[simp] theorem State.setCpsr_regs (s : State) (v : Word) : (s.setCpsr v).regs = s.regs := rfl
@[simp] theorem State.setCpsr_pc (s : State) (v : Word) : (s.setCpsr v).pc = s.pc := rfl
@[simp] theorem State.setCpsr_prefetched (s : State) (v : Word) : (s.setCpsr v).prefetched = s.prefetched := rfl
@[simp] theorem State.setCpsr_cpsr (s : State) (v : Word) : (s.setCpsr v).cpsr = v := rfl
@[simp] theorem State.setCpsr_spsrFiq (s : State) (v : Word) : (s.setCpsr v).spsrFiq = s.spsrFiq := rfl
@[simp] theorem State.setCpsr_spsrSvc (s : State) (v : Word) : (s.setCpsr v).spsrSvc = s.spsrSvc := rfl
@[simp] theorem State.setCpsr_spsrAbt (s : State) (v : Word) : (s.setCpsr v).spsrAbt = s.spsrAbt := rfl
@[simp] theorem State.setCpsr_spsrIrq (s : State) (v : Word) : (s.setCpsr v).spsrIrq = s.spsrIrq := rfl
@[simp] theorem State.setCpsr_spsrUnd (s : State) (v : Word) : (s.setCpsr v).spsrUnd = s.spsrUnd := rfl
@[simp] theorem State.setCpsr_mem (s : State) (v : Word) : (s.setCpsr v).mem = s.mem := rfl
@[simp] theorem State.setCpsr_lines (s : State) (v : Word) : (s.setCpsr v).lines = s.lines := rfl
@[simp] theorem State.setCpsr_upcoming (s : State) (v : Word) : (s.setCpsr v).upcoming = s.upcoming := rfl
@[simp] theorem State.setCpsr_platform (s : State) (v : Word) : (s.setCpsr v).platform = s.platform := rfl
@[simp] theorem State.setCpsr_draws (s : State) (v : Word) : (s.setCpsr v).draws = s.draws := rfl
@[simp] theorem State.setCpsr_phys (s : State) (v : Word) (q : PhysReg) : (s.setCpsr v).phys q = s.phys q := rfl
@[simp] theorem State.setCpsr_spsrOf (s : State) (v : Word) (b : Bank) : (s.setCpsr v).spsrOf b = s.spsrOf b := rfl

@[simp] theorem State.setMem_regs (s : State) (m : Memory) : (s.setMem m).regs = s.regs := rfl
@[simp] theorem State.setMem_pc (s : State) (m : Memory) : (s.setMem m).pc = s.pc := rfl
@[simp] theorem State.setMem_prefetched (s : State) (m : Memory) : (s.setMem m).prefetched = s.prefetched := rfl
@[simp] theorem State.setMem_cpsr (s : State) (m : Memory) : (s.setMem m).cpsr = s.cpsr := rfl
@[simp] theorem State.setMem_spsrFiq (s : State) (m : Memory) : (s.setMem m).spsrFiq = s.spsrFiq := rfl
@[simp] theorem State.setMem_spsrSvc (s : State) (m : Memory) : (s.setMem m).spsrSvc = s.spsrSvc := rfl
@[simp] theorem State.setMem_spsrAbt (s : State) (m : Memory) : (s.setMem m).spsrAbt = s.spsrAbt := rfl
@[simp] theorem State.setMem_spsrIrq (s : State) (m : Memory) : (s.setMem m).spsrIrq = s.spsrIrq := rfl
@[simp] theorem State.setMem_spsrUnd (s : State) (m : Memory) : (s.setMem m).spsrUnd = s.spsrUnd := rfl
@[simp] theorem State.setMem_mem (s : State) (m : Memory) : (s.setMem m).mem = m := rfl
@[simp] theorem State.setMem_lines (s : State) (m : Memory) : (s.setMem m).lines = s.lines := rfl
@[simp] theorem State.setMem_upcoming (s : State) (m : Memory) : (s.setMem m).upcoming = s.upcoming := rfl
@[simp] theorem State.setMem_platform (s : State) (m : Memory) : (s.setMem m).platform = s.platform := rfl
@[simp] theorem State.setMem_draws (s : State) (m : Memory) : (s.setMem m).draws = s.draws := rfl
@[simp] theorem State.setMem_phys (s : State) (m : Memory) (q : PhysReg) : (s.setMem m).phys q = s.phys q := rfl
@[simp] theorem State.setMem_spsrOf (s : State) (m : Memory) (b : Bank) : (s.setMem m).spsrOf b = s.spsrOf b := rfl
@[simp] theorem State.setMem_bank (s : State) (m : Memory) : (s.setMem m).bank = s.bank := rfl

/-! ## Registers read back (R23) -/

theorem PhysReg.index_inj {p q : PhysReg} (h : p.index = q.index) : p = q := by
  cases p <;> cases q <;> first | rfl | exact absurd h (by decide)

theorem State.phys_setPhys (s : State) (p q : PhysReg) (v : Word) :
    (s.setPhys p v).phys q = if p = q then v else s.phys q := by
  simp only [State.phys, State.setPhys, Fin.getElem_fin]
  by_cases h : p = q
  · subst h; simp
  · have : p.index.val ≠ q.index.val := fun e => h (PhysReg.index_inj (Fin.ext e))
    simp [h, Vector.getElem_set_ne, this]

@[simp] theorem State.phys_setPhys_self (s : State) (p : PhysReg) (v : Word) : (s.setPhys p v).phys p = v := by
  simp [State.phys_setPhys]

theorem State.phys_setPhys_ne (s : State) (p q : PhysReg) (v : Word) (h : p ≠ q) :
    (s.setPhys p v).phys q = s.phys q := by simp [State.phys_setPhys, h]

theorem State.phys_setReg (s : State) (r : Reg) (v : Word) (q : PhysReg) :
    (s.setReg r v).phys q = if physReg s.bank r = q then v else s.phys q := State.phys_setPhys ..

theorem State.phys_setUserReg (s : State) (r : Reg) (v : Word) (q : PhysReg) :
    (s.setUserReg r v).phys q = if physReg .usr r = q then v else s.phys q := State.phys_setPhys ..

/-- A register number from 0 to 14 names one register of a bank. -/
theorem physReg_inj (b : Bank) {x y : Reg} (hx : x ≠ 15#4) (hy : y ≠ 15#4) (h : physReg b x = physReg b y) : x = y := by
  revert x y
  cases b <;> decide

theorem isPc_eq_false {r : Reg} : isPc r = false ↔ r ≠ 15#4 := by simp [isPc]

theorem State.reg_of_ne (s : State) {r : Reg} (h : r ≠ 15#4) : s.reg r = s.phys (physReg s.bank r) := by
  simp [State.reg, State.regAhead, isPc, h]

theorem State.reg12_of_ne (s : State) {r : Reg} (h : r ≠ 15#4) : s.reg12 r = s.phys (physReg s.bank r) := by
  simp [State.reg12, State.regAhead, isPc, h]

@[simp] theorem State.reg_pc (s : State) : s.reg 15#4 = s.pc + 8 := by simp [State.reg, State.regAhead, isPc]

@[simp] theorem State.reg12_pc (s : State) : s.reg12 15#4 = s.pc + 12 := by simp [State.reg12, State.regAhead, isPc]

end Sys2Proof.Machine
end

