-- ==== Sys2Proof/Laws/Flow.lean ====
section
/-! SUPPORT. What each piece of control flow inside an instruction can answer: one lemma per operation. -/

namespace Sys2Proof.Machine

/-! ## Attempts -/

@[simp] theorem Attempt.andThen_ok {α β : Type} (a : α) (k : α → Attempt β) : (Attempt.ok a).andThen k = k a := rfl
@[simp] theorem Attempt.andThen_abort {α β : Type} (s : State) (k : α → Attempt β) :
    (Attempt.abort s).andThen k = .abort s := rfl
@[simp] theorem Attempt.andThen_fault {α β : Type} (r : Fault) (k : α → Attempt β) :
    (Attempt.fault r).andThen k = .fault r := rfl
@[simp] theorem Attempt.andThen_refused {α β : Type} (r : Refusal) (k : α → Attempt β) :
    (Attempt.refused r).andThen k = .refused r := rfl
@[simp] theorem require_true {α : Type} (r : Refusal) (k : Attempt α) : require true r k = k := rfl
@[simp] theorem require_false {α : Type} (r : Refusal) (k : Attempt α) : require false r k = .refused r := rfl

theorem Attempt.andThen_eq_ok {α β : Type} {x : Attempt α} {k : α → Attempt β} {b : β} :
    x.andThen k = .ok b ↔ ∃ a, x = .ok a ∧ k a = .ok b := by
  cases x <;> simp [Attempt.andThen]

theorem Attempt.andThen_eq_abort {α β : Type} {x : Attempt α} {k : α → Attempt β} {s : State} :
    x.andThen k = .abort s ↔ x = .abort s ∨ ∃ a, x = .ok a ∧ k a = .abort s := by
  cases x <;> simp [Attempt.andThen]

theorem require_eq_ok {α : Type} {b : Bool} {r : Refusal} {k : Attempt α} {a : α} :
    require b r k = .ok a ↔ b = true ∧ k = .ok a := by
  cases b <;> simp [require]

theorem require_eq_abort {α : Type} {b : Bool} {r : Refusal} {k : Attempt α} {s : State} :
    require b r k = .abort s ↔ b = true ∧ k = .abort s := by
  cases b <;> simp [require]

/-! ## An instruction as a whole -/

@[simp] theorem Attempt.outcome_ok (t : State) : (Attempt.ok t).outcome = .next t := rfl
@[simp] theorem Attempt.outcome_abort (t : State) : (Attempt.abort t).outcome = .next (t.enter .dataAbort) := rfl
@[simp] theorem Attempt.outcome_fault (r : Fault) : (Attempt.fault r).outcome = .fault r := rfl
@[simp] theorem Attempt.outcome_refused (r : Refusal) : (Attempt.refused r).outcome = .refused r := rfl

theorem Attempt.outcome_eq_next {x : Attempt State} {t : State} :
    x.outcome = .next t ↔ x = .ok t ∨ ∃ u, x = .abort u ∧ t = u.enter .dataAbort := by
  cases x <;> simp [Attempt.outcome, eq_comm]

theorem conditional_passed {c : Cond} {s : State} {body : Attempt State} (h : condPassed c s.cpsr = true) :
    conditional c s body = body.outcome := by simp [conditional, h]

theorem conditional_failed {c : Cond} {s : State} {body : Attempt State} (h : condPassed c s.cpsr = false) :
    conditional c s body = s.advance.outcome := by simp [conditional, h]

/-! ## The program counter -/

theorem State.advance_of_ne {s : State} (h : s.pc ≠ 0xFFFFFFFC#32) : s.advance = .ok (s.setPc (s.pc + 4)) := by
  have : (s.pc != 0xFFFFFFFC#32) = true := by simpa using h
  rw [State.advance, this]; rfl

theorem State.advance_of_eq {s : State} (h : s.pc = 0xFFFFFFFC#32) : s.advance = .refused .pcWrap := by
  simp [State.advance, require, h]

theorem State.advance_eq_ok {s t : State} :
    s.advance = .ok t ↔ s.pc ≠ 0xFFFFFFFC#32 ∧ t = s.setPc (s.pc + 4) := by
  by_cases h : s.pc = 0xFFFFFFFC#32
  · simp [State.advance_of_eq h, h]
  · simp [State.advance_of_ne h, h, eq_comm]

@[simp] theorem State.advance_ne_abort {s t : State} : s.advance ≠ .abort t := by
  by_cases h : s.pc = 0xFFFFFFFC#32
  · simp [State.advance_of_eq h]
  · simp [State.advance_of_ne h]

theorem State.writePc_of_aligned {s : State} {v : Word} (h : wordAligned v = true) :
    s.writePc v = .ok (s.jump v) := by simp [State.writePc, h]

theorem State.writePc_of_misaligned {s : State} {v : Word} (h : wordAligned v = false) :
    s.writePc v = .refused .misalignedPc := by simp [State.writePc, h]

theorem State.writePc_eq_ok {s t : State} {v : Word} :
    s.writePc v = .ok t ↔ wordAligned v = true ∧ t = s.jump v := by
  rw [State.writePc, require_eq_ok, Attempt.ok.injEq, @eq_comm _ t]

@[simp] theorem State.writePc_ne_abort {s t : State} {v : Word} : s.writePc v ≠ .abort t := by
  simp [State.writePc, require_eq_abort]

theorem State.putReg_of_ne {s : State} {r : Reg} {v : Word} (h : r ≠ 15#4) : s.putReg r v = (s.setReg r v).advance := by
  simp [State.putReg, isPc, h]

theorem State.putReg_pc {s : State} {v : Word} : s.putReg 15#4 v = s.writePc v := by simp [State.putReg, isPc]

@[simp] theorem State.putReg_ne_abort {s t : State} {r : Reg} {v : Word} : s.putReg r v ≠ .abort t := by
  unfold State.putReg; split <;> simp

/-- All that a last write can do: jump, or write a register and let the pc advance. -/
theorem State.putReg_eq_ok {s t : State} {r : Reg} {v : Word} :
    s.putReg r v = .ok t ↔
      (r = 15#4 ∧ wordAligned v = true ∧ t = s.jump v) ∨
      (r ≠ 15#4 ∧ s.pc ≠ 0xFFFFFFFC#32 ∧ t = (s.setReg r v).setPc (s.pc + 4)) := by
  by_cases h : r = 15#4
  · rw [h, State.putReg_pc, State.writePc_eq_ok]
    exact ⟨fun e => .inl ⟨rfl, e.1, e.2⟩, fun e => e.elim (fun e => e.2) fun e => absurd rfl e.1⟩
  · rw [State.putReg_of_ne h, State.advance_eq_ok]
    exact ⟨fun e => .inr ⟨h, e.1, e.2⟩, fun e => e.elim (fun e => absurd e.1 h) fun e => e.2⟩

/-! ## The CPSR loaded, and the return from an exception (R113, R176, R255) -/

theorem State.loadCpsr_eq_ok {s t : State} {p : Word} :
    s.loadCpsr p = .ok t ↔ psrT p = false ∧ (Mode.ofBits (psrM p)).isSome = true ∧ t = s.setCpsr p := by
  rw [State.loadCpsr, require_eq_ok, require_eq_ok, Attempt.ok.injEq, @eq_comm _ t, Bool.not_eq_true']

@[simp] theorem State.loadCpsr_ne_abort {s t : State} {p : Word} : s.loadCpsr p ≠ .abort t := by
  simp [State.loadCpsr, require_eq_abort]

theorem State.exceptionReturn_eq_ok {s t : State} {v : Word} :
    s.exceptionReturn v = .ok t ↔ ∃ p, s.spsrOf s.bank = some p ∧ wordAligned v = true ∧ psrT p = false ∧
      (Mode.ofBits (psrM p)).isSome = true ∧ t = (s.jump v).setCpsr p := by
  unfold State.exceptionReturn
  cases s.spsrOf s.bank with
  | none => simp
  | some p =>
    rw [Attempt.andThen_eq_ok]
    constructor
    · rintro ⟨u, hu, ht⟩
      obtain ⟨h, rfl⟩ := State.writePc_eq_ok.mp hu
      obtain ⟨h2, h3, rfl⟩ := State.loadCpsr_eq_ok.mp ht
      exact ⟨p, rfl, h, h2, h3, rfl⟩
    · rintro ⟨q, hq, h, h2, h3, rfl⟩
      cases hq
      exact ⟨_, State.writePc_eq_ok.mpr ⟨h, rfl⟩, State.loadCpsr_eq_ok.mpr ⟨h2, h3, rfl⟩⟩

@[simp] theorem State.exceptionReturn_ne_abort {s t : State} {v : Word} : s.exceptionReturn v ≠ .abort t := by
  unfold State.exceptionReturn
  split
  · simp
  · simp [Attempt.andThen_eq_abort]

end Sys2Proof.Machine
end

