-- ==== Sys2Proof/Laws/Bits.lean ====
section
/-! SUPPORT. Bit fields of a word: `field` reads what `place` put, and nothing else. -/

namespace Sys2Proof

@[simp] theorem getLsbD_place {n k : Nat} (lo : Nat) (x : BitVec n) (i : Nat) :
    (place lo x : BitVec k).getLsbD i = (decide (i < k) && decide (lo ≤ i) && x.getLsbD (i - lo)) := by
  simp only [place, BitVec.getLsbD_shiftLeft, BitVec.getLsbD_setWidth]
  by_cases h : i < k <;> by_cases h2 : lo ≤ i
  · have : i - lo < k := by omega
    have h3 : ¬ i < lo := by omega
    simp [h, h2, this, h3]
  · have h3 : i < lo := by omega
    simp [h2, h3]
  · simp [h]
  · simp [h]

@[simp] theorem getElem_place {n k : Nat} (lo : Nat) (x : BitVec n) (i : Nat) (h : i < k) :
    (place lo x : BitVec k)[i] = (decide (lo ≤ i) && x.getLsbD (i - lo)) := by
  rw [← BitVec.getLsbD_eq_getElem, getLsbD_place]; simp [h]

@[simp] theorem getLsbD_field (w : Word) (lo n i : Nat) :
    (field w lo n).getLsbD i = (decide (i < n) && w.getLsbD (lo + i)) := by
  simp [field, BitVec.getLsbD_extractLsb']

@[simp] theorem getElem_field (w : Word) (lo n i : Nat) (h : i < n) : (field w lo n)[i] = w.getLsbD (lo + i) := by
  simp [field]

theorem field_or (a b : Word) (lo n : Nat) : field (a ||| b) lo n = field a lo n ||| field b lo n := by
  apply BitVec.eq_of_getLsbD_eq; intro i hi; simp [hi]

/-- A field reads back what was placed at its bits. -/
theorem field_place_self {n : Nat} (lo : Nat) (x : BitVec n) (h : lo + n ≤ 32) : field (place lo x) lo n = x := by
  apply BitVec.eq_of_getLsbD_eq; intro i hi
  simp [hi]; omega

/-- A field inside what was placed. -/
theorem field_place_sub {m : Nat} (l lo n : Nat) (x : BitVec m) (h : l ≤ lo) (h2 : lo + n ≤ 32) :
    field (place l x) lo n = x.extractLsb' (lo - l) n := by
  apply BitVec.eq_of_getLsbD_eq; intro i hi
  have : lo + i < 32 := by omega
  have h3 : lo + i - l = lo - l + i := by omega
  have h4 : l ≤ lo + i := by omega
  simp [hi, this, h3, h4]

/-- A field below what was placed. -/
theorem field_place_above {m : Nat} (l lo n : Nat) (x : BitVec m) (h : lo + n ≤ l) : field (place l x) lo n = 0#n := by
  apply BitVec.eq_of_getLsbD_eq; intro i hi
  have h3 : ¬ l ≤ lo + i := by omega
  simp [h3]

/-- A field above what was placed. -/
theorem field_place_below {m : Nat} (l lo n : Nat) (x : BitVec m) (h : l + m ≤ lo) : field (place l x) lo n = 0#n := by
  apply BitVec.eq_of_getLsbD_eq; intro i hi
  have h3 : x.getLsbD (lo + i - l) = false := BitVec.getLsbD_of_ge _ _ (by omega)
  simp [h3]

@[simp] theorem getLsbD_bit (b : Bool) (i : Nat) : (bit b).getLsbD i = (decide (i = 0) && b) := by
  cases i <;> cases b <;> simp [bit]

@[simp] theorem getElem_bit (b : Bool) (i : Nat) (h : i < 1) : (bit b)[i] = b := by
  have : i = 0 := by omega
  subst this; cases b <;> simp [bit]

theorem ofBits_cond_bits (c : Cond) : Cond.ofBits c.bits = some c := by cases c <;> rfl

theorem ofBits_shiftType_bits (t : ShiftType) : ShiftType.ofBits t.bits = t := by cases t <;> rfl

end Sys2Proof
end

