-- ==== Sys2Proof/Laws/Memory.lean ====
section
/-! SUPPORT. Memory: what a byte reads as after a write, what a word and a halfword read as, and that every operation
keeps the canonical form. -/

namespace Sys2Proof.Machine

/-! ## The list -/

theorem Memory.wfFrom_cons {lo j : Nat} {v : Byte} {rest : Memory} :
    Memory.wfFrom lo ((j, v) :: rest) = true ↔
      lo ≤ j ∧ j < 4294967296 ∧ v ≠ unlistedByte ∧ Memory.wfFrom (j + 1) rest = true := by
  simp [Memory.wfFrom, and_assoc]

theorem Memory.wfFrom_mono {m : Memory} {lo lo' : Nat} (h : lo' ≤ lo) (hm : Memory.wfFrom lo m = true) :
    Memory.wfFrom lo' m = true := by
  cases m with
  | nil => rfl
  | cons c rest =>
    obtain ⟨j, v⟩ := c
    rw [Memory.wfFrom_cons] at hm ⊢
    exact ⟨by omega, hm.2⟩

/-- Below the lowest key nothing is listed. -/
theorem Memory.lookup_of_lt {m : Memory} {lo k : Nat} (hm : Memory.wfFrom lo m = true) (h : k < lo) :
    m.lookup k = unlistedByte := by
  induction m generalizing lo with
  | nil => rfl
  | cons c rest ih =>
    obtain ⟨j, v⟩ := c
    rw [Memory.wfFrom_cons] at hm
    have : j ≠ k := by omega
    simp only [Memory.lookup, this, if_false]
    exact ih hm.2.2.2 (by omega)

/-- Writing a byte keeps the canonical form. -/
theorem Memory.wfFrom_insert {m : Memory} {lo k : Nat} {v : Byte} (hm : Memory.wfFrom lo m = true) (hlo : lo ≤ k)
    (hk : k < 4294967296) : Memory.wfFrom lo (m.insert k v) = true := by
  induction m generalizing lo with
  | nil =>
    unfold Memory.insert
    by_cases hv : v = unlistedByte
    · simp [hv, Memory.wfFrom]
    · simp [hv, Memory.wfFrom, hlo, hk]
  | cons c rest ih =>
    obtain ⟨j, w⟩ := c
    have h := Memory.wfFrom_cons.mp hm
    unfold Memory.insert
    by_cases h1 : k < j
    · simp only [h1, if_true]
      by_cases hv : v = unlistedByte
      · simp only [hv, if_true]; exact hm
      · simp only [hv, if_false]
        exact Memory.wfFrom_cons.mpr ⟨hlo, hk, hv, Memory.wfFrom_cons.mpr ⟨by omega, h.2⟩⟩
    · simp only [h1, if_false]
      by_cases h2 : k = j
      · simp only [h2, if_true]
        by_cases hv : v = unlistedByte
        · simp only [hv, if_true]; exact Memory.wfFrom_mono (by omega) h.2.2.2
        · simp only [hv, if_false]; exact Memory.wfFrom_cons.mpr ⟨h.1, h.2.1, hv, h.2.2.2⟩
      · simp only [h2, if_false]
        exact Memory.wfFrom_cons.mpr ⟨h.1, h.2.1, h.2.2.1, ih h.2.2.2 (by omega)⟩

theorem Memory.lookup_cons (j : Nat) (v : Byte) (rest : Memory) (k : Nat) :
    Memory.lookup ((j, v) :: rest) k = if j = k then v else Memory.lookup rest k := rfl

/-- Reading another key than the one written. -/
theorem Memory.lookup_insert_ne (m : Memory) (k q : Nat) (v : Byte) (h : k ≠ q) :
    (m.insert k v).lookup q = m.lookup q := by
  induction m with
  | nil => unfold Memory.insert; split <;> simp [Memory.lookup, h]
  | cons c rest ih =>
    obtain ⟨j, w⟩ := c
    unfold Memory.insert
    by_cases h1 : k < j
    · simp only [h1, if_true]; split <;> simp [Memory.lookup_cons, h]
    · simp only [h1, if_false]
      by_cases h2 : k = j
      · subst h2; simp only [if_true]; split <;> simp [Memory.lookup_cons, h]
      · simp only [h2, if_false, Memory.lookup_cons, ih]

/-- Reading the key written, in canonical memory. -/
theorem Memory.lookup_insert_self {m : Memory} {lo : Nat} (hm : Memory.wfFrom lo m = true) (k : Nat) (v : Byte) :
    (m.insert k v).lookup k = v := by
  induction m generalizing lo with
  | nil => unfold Memory.insert; split <;> simp_all [Memory.lookup]
  | cons c rest ih =>
    obtain ⟨j, w⟩ := c
    have h := Memory.wfFrom_cons.mp hm
    unfold Memory.insert
    by_cases h1 : k < j
    · simp only [h1, if_true]
      by_cases hv : v = unlistedByte
      · simp only [hv, if_true]
        exact Memory.lookup_of_lt (Memory.wfFrom_cons.mpr ⟨Nat.le_refl j, h.2⟩) h1
      · simp only [hv, if_false, Memory.lookup_cons, if_true]
    · simp only [h1, if_false]
      by_cases h2 : k = j
      · simp only [h2, if_true]
        by_cases hv : v = unlistedByte
        · simp only [hv, if_true]
          exact Memory.lookup_of_lt h.2.2.2 (Nat.lt_succ_self j)
        · simp only [hv, if_false, Memory.lookup_cons, if_true]
      · have : ¬ j = k := fun e => h2 e.symm
        simp only [h2, if_false, Memory.lookup_cons, this]
        exact ih h.2.2.2

/-! ## Bytes (R50) -/

theorem Memory.wf_write {m : Memory} (hm : m.wf = true) (a : Word) (v : Byte) : (m.write a v).wf = true :=
  Memory.wfFrom_insert hm (Nat.zero_le _) a.isLt

theorem Memory.read_write_self {m : Memory} (hm : m.wf = true) (a : Word) (v : Byte) : (m.write a v).read a = v :=
  Memory.lookup_insert_self hm _ _

theorem Memory.read_write_ne (m : Memory) {a b : Word} (v : Byte) (h : a ≠ b) : (m.write a v).read b = m.read b :=
  Memory.lookup_insert_ne _ _ _ _ fun e => h (BitVec.eq_of_toNat_eq e)

theorem Memory.wf_writeBytes {m : Memory} (hm : m.wf = true) (a : Word) (bs : List Byte) :
    (m.writeBytes a bs).wf = true := by
  induction bs generalizing m a with
  | nil => exact hm
  | cons b rest ih => exact ih (Memory.wf_write hm a b) (a + 1)

/-- A byte outside those written is as before. -/
theorem Memory.read_writeBytes_outside (m : Memory) (a b : Word) (bs : List Byte) (h : b ∉ addrBytes a bs.length) :
    (m.writeBytes a bs).read b = m.read b := by
  induction bs generalizing m a with
  | nil => rfl
  | cons v rest ih =>
    simp only [List.length_cons, addrBytes, List.mem_cons, not_or] at h
    exact (ih (m.write a v) (a + 1) h.2).trans (Memory.read_write_ne m v (Ne.symm h.1))

theorem length_bytesOfWord (big : Bool) (w : Word) : (bytesOfWord big w).length = 4 := by cases big <;> rfl

theorem length_bytesOfHalf (big : Bool) (h : Half) : (bytesOfHalf big h).length = 2 := by cases big <;> rfl

theorem Memory.wf_setWord {m : Memory} (hm : m.wf = true) (big : Bool) (a v : Word) : (m.setWord big a v).wf = true :=
  Memory.wf_writeBytes hm a _

theorem Memory.wf_setHalf {m : Memory} (hm : m.wf = true) (big : Bool) (a : Word) (v : Half) :
    (m.setHalf big a v).wf = true := Memory.wf_writeBytes hm a _

theorem Memory.read_setWord_outside (m : Memory) (big : Bool) (a v b : Word) (h : b ∉ addrBytes a 4) :
    (m.setWord big a v).read b = m.read b :=
  Memory.read_writeBytes_outside m a b _ (by rwa [length_bytesOfWord])

theorem Memory.read_setHalf_outside (m : Memory) (big : Bool) (a b : Word) (v : Half) (h : b ∉ addrBytes a 2) :
    (m.setHalf big a v).read b = m.read b :=
  Memory.read_writeBytes_outside m a b _ (by rwa [length_bytesOfHalf])

/-- The four bytes just written, one by one. -/
theorem Memory.read_writeBytes_four {m : Memory} (hm : m.wf = true) (a : Word) (b0 b1 b2 b3 : Byte) :
    (m.writeBytes a [b0, b1, b2, b3]).read a = b0 ∧ (m.writeBytes a [b0, b1, b2, b3]).read (a + 1) = b1 ∧
    (m.writeBytes a [b0, b1, b2, b3]).read (a + 2) = b2 ∧ (m.writeBytes a [b0, b1, b2, b3]).read (a + 3) = b3 := by
  have e2 : a + 1 + 1 = a + 2 := by bv_omega
  have e3 : a + 2 + 1 = a + 3 := by bv_omega
  simp only [Memory.writeBytes, e2, e3]
  have h0 := Memory.wf_write hm a b0
  have h1 := Memory.wf_write h0 (a + 1) b1
  have h2 := Memory.wf_write h1 (a + 2) b2
  refine ⟨?_, ?_, ?_, Memory.read_write_self h2 _ _⟩
  · rw [Memory.read_write_ne _ _ (by bv_omega), Memory.read_write_ne _ _ (by bv_omega),
      Memory.read_write_ne _ _ (by bv_omega), Memory.read_write_self hm]
  · rw [Memory.read_write_ne _ _ (by bv_omega), Memory.read_write_ne _ _ (by bv_omega), Memory.read_write_self h0]
  · rw [Memory.read_write_ne _ _ (by bv_omega), Memory.read_write_self h1]

theorem wordOfBytes_bytes (w : Word) :
    wordOfBytes false (field w 0 8) (field w 8 8) (field w 16 8) (field w 24 8) = w ∧
    wordOfBytes true (field w 24 8) (field w 16 8) (field w 8 8) (field w 0 8) = w := by
  constructor <;>
  · apply BitVec.eq_of_getLsbD_eq
    intro i hi
    simp only [wordOfBytes, Bool.false_eq_true, if_true, if_false, BitVec.getLsbD_or, getLsbD_place, getLsbD_field, hi,
      decide_true, Bool.true_and]
    by_cases h1 : i < 8
    · have : ¬ 24 ≤ i ∧ ¬ 16 ≤ i ∧ ¬ 8 ≤ i := by omega
      simp [h1, this]
    · by_cases h2 : i < 16
      · have : ¬ 24 ≤ i ∧ ¬ 16 ≤ i ∧ 8 ≤ i ∧ i - 8 < 8 ∧ 8 + (i - 8) = i := by omega
        simp [h1, this]
      · by_cases h3 : i < 24
        · have : ¬ 24 ≤ i ∧ 16 ≤ i ∧ 8 ≤ i ∧ ¬ i - 8 < 8 ∧ i - 16 < 8 ∧ 16 + (i - 16) = i := by omega
          simp [h1, this]
        · have : 24 ≤ i ∧ 16 ≤ i ∧ 8 ≤ i ∧ ¬ i - 8 < 8 ∧ ¬ i - 16 < 8 ∧ i - 24 < 8 ∧ 24 + (i - 24) = i := by omega
          simp [h1, this]

/-- A word written reads back (R50). -/
theorem Memory.word_setWord {m : Memory} (hm : m.wf = true) (big : Bool) (a v : Word) :
    (m.setWord big a v).word big a = v := by
  cases big
  · have := Memory.read_writeBytes_four hm a (field v 0 8) (field v 8 8) (field v 16 8) (field v 24 8)
    simp only [Memory.word, Memory.setWord, bytesOfWord, Bool.false_eq_true, if_false, this]
    exact (wordOfBytes_bytes v).1
  · have := Memory.read_writeBytes_four hm a (field v 24 8) (field v 16 8) (field v 8 8) (field v 0 8)
    simp only [Memory.word, Memory.setWord, bytesOfWord, if_true, List.reverse_cons, List.reverse_nil, List.nil_append,
      List.cons_append, this]
    exact (wordOfBytes_bytes v).2

theorem halfOfBytes_bytes (h : Half) :
    halfOfBytes false (h.extractLsb' 0 8) (h.extractLsb' 8 8) = h ∧
    halfOfBytes true (h.extractLsb' 8 8) (h.extractLsb' 0 8) = h := by
  constructor <;>
  · apply BitVec.eq_of_getLsbD_eq
    intro i hi
    simp only [halfOfBytes, Bool.false_eq_true, if_true, if_false, BitVec.getLsbD_or, getLsbD_place,
      BitVec.getLsbD_extractLsb', hi, decide_true, Bool.true_and]
    by_cases h1 : i < 8
    · have : ¬ 8 ≤ i := by omega
      simp [h1, this]
    · have : 8 ≤ i ∧ i - 8 < 8 ∧ 8 + (i - 8) = i := by omega
      simp [h1, this]

/-- A halfword written reads back (R50). -/
theorem Memory.half_setHalf {m : Memory} (hm : m.wf = true) (big : Bool) (a : Word) (v : Half) :
    (m.setHalf big a v).half big a = v := by
  have key : ∀ b0 b1 : Byte, (m.writeBytes a [b0, b1]).read a = b0 ∧ (m.writeBytes a [b0, b1]).read (a + 1) = b1 := by
    intro b0 b1
    simp only [Memory.writeBytes]
    have h0 := Memory.wf_write hm a b0
    exact ⟨by rw [Memory.read_write_ne _ _ (by bv_omega), Memory.read_write_self hm], Memory.read_write_self h0 _ _⟩
  cases big
  · simp only [Memory.half, Memory.setHalf, bytesOfHalf, Bool.false_eq_true, if_false, key]
    exact (halfOfBytes_bytes v).1
  · simp only [Memory.half, Memory.setHalf, bytesOfHalf, if_true, List.reverse_cons, List.reverse_nil, List.nil_append,
      List.cons_append, key]
    exact (halfOfBytes_bytes v).2

/-- A word read from memory whose four bytes are as before is as before. -/
theorem Memory.word_congr {m n : Memory} {big : Bool} {a : Word} (h : ∀ b, b ∈ addrBytes a 4 → m.read b = n.read b) :
    m.word big a = n.word big a := by
  have e2 : a + 1 + 1 = a + 2 := by bv_omega
  have e3 : a + 2 + 1 = a + 3 := by bv_omega
  simp only [addrBytes, e2, e3, List.mem_cons, List.not_mem_nil, or_false] at h
  simp only [Memory.word, h a (by simp), h (a + 1) (by simp), h (a + 2) (by simp), h (a + 3) (by simp)]

/-! ## A reset event (R43, R63) -/

theorem Memory.wf_scramble {m : Memory} (hm : m.wf = true) (p : Platform) (cells : List (Word × Byte)) :
    (m.scramble p cells).wf = true := by
  induction cells generalizing m with
  | nil => exact hm
  | cons c rest ih =>
    obtain ⟨a, v⟩ := c
    unfold Memory.scramble
    split
    · exact ih hm
    · exact ih (Memory.wf_write hm a v)

theorem Memory.read_scramble_text (m : Memory) (p : Platform) (cells : List (Word × Byte)) (b : Word)
    (hb : p.isText b = true) : (m.scramble p cells).read b = m.read b := by
  induction cells generalizing m with
  | nil => rfl
  | cons c rest ih =>
    obtain ⟨a, v⟩ := c
    unfold Memory.scramble
    by_cases ha : p.isText a = true
    · simp only [ha, if_true]; exact ih m
    · simp only [ha, Bool.false_eq_true, if_false]
      rw [ih, Memory.read_write_ne]
      rintro rfl; exact ha hb

/-- Memory right after reset is canonical. -/
theorem Memory.wf_reset : State.reset.mem.wf = true := rfl

end Sys2Proof.Machine
end

