-- ==== Sys2Proof/Laws/Access.lean ====
section
/-! SUPPORT. What each load and store of the machine can answer (R50 to R63). -/

namespace Sys2Proof.Machine

/-- An access goes ahead exactly where no abort, no hole of MemMap and, for a write, no program text is met. -/
theorem State.access_eq_ok {s : State} {k : AccessKind} {a : Word} {n : Nat} {x : Unit} :
    s.access k a n = .ok x ↔ s.platform.abortsAt k a n = false ∧ s.platform.mapped a n = true ∧
      (k = .write → s.platform.inText a n = false) := by
  unfold State.access
  cases s.platform.abortsAt k a n <;> cases s.platform.mapped a n <;> cases s.platform.inText a n <;>
    by_cases h : k = .write <;> simp [h]

/-- An aborted access answers with the state as it was. -/
theorem State.access_eq_abort {s t : State} {k : AccessKind} {a : Word} {n : Nat} :
    s.access k a n = .abort t ↔ s.platform.abortsAt k a n = true ∧ t = s := by
  unfold State.access
  cases s.platform.abortsAt k a n <;> cases s.platform.mapped a n <;> cases s.platform.inText a n <;>
    by_cases h : k = .write <;> simp [h, @eq_comm _ s]

theorem State.access_read {s : State} {a : Word} {n : Nat} (h : readable s a n = true) : s.access .read a n = .ok () := by
  simp only [readable, Bool.and_eq_true, Bool.not_eq_true'] at h
  exact State.access_eq_ok.mpr ⟨h.1, h.2, fun e => nomatch e⟩

theorem State.access_write {s : State} {a : Word} {n : Nat} (h : writable s a n = true) :
    s.access .write a n = .ok () := by
  simp only [writable, Bool.and_eq_true, Bool.not_eq_true'] at h
  exact State.access_eq_ok.mpr ⟨h.1.1, h.1.2, fun _ => h.2⟩

/-- An access outside MemMap that no abort claims is stuck (R61). -/
theorem State.access_unmapped {s : State} {k : AccessKind} {a : Word} {n : Nat} (ha : s.platform.abortsAt k a n = false)
    (hm : s.platform.mapped a n = false) : s.access k a n = .fault .unmapped := by
  simp [State.access, ha, hm]

/-- A store into program text that goes through otherwise is refused (R63). -/
theorem State.access_text {s : State} {a : Word} {n : Nat} (ha : s.platform.abortsAt .write a n = false)
    (hm : s.platform.mapped a n = true) (ht : s.platform.inText a n = true) :
    s.access .write a n = .refused .storeToText := by
  simp [State.access, ha, hm, ht]

/-! ## Alignment (R53, R54) -/

theorem alignDown_of_aligned {a : Word} (h : wordAligned a = true) : alignDown a = a := by
  have h0 : a.getLsbD 0 = false ∧ a.getLsbD 1 = false := by
    have e : field a 0 2 = 0#2 := by simpa [wordAligned] using h
    exact ⟨by simpa using congrArg (BitVec.getLsbD · 0) e, by simpa using congrArg (BitVec.getLsbD · 1) e⟩
  apply BitVec.eq_of_getLsbD_eq
  intro i hi
  have mask : ∀ k : Fin 32, (0xFFFFFFFC#32).getLsbD k.val = decide (2 ≤ k.val) := by decide
  rw [alignDown, BitVec.getLsbD_and, mask ⟨i, hi⟩]
  rcases i with _ | _ | i
  · simpa using h0.1.symm
  · simpa using h0.2.symm
  · simp

/-- A word access that is not refused for its alignment is made at the aligned address. -/
theorem State.wordAddress_of_ok {s : State} {a : Word} (h : wordAccessOk s a = true) :
    s.wordAddress a = .ok (alignDown a) := by
  unfold State.wordAddress
  by_cases ha : wordAligned a = true
  · simp [ha, alignDown_of_aligned ha]
  · simp only [wordAccessOk, ha, Bool.false_or, decide_eq_true_eq] at h
    simp [ha, h]

theorem State.wordAddress_of_not_ok {s : State} {a : Word} (h : wordAccessOk s a = false) :
    s.wordAddress a = .refused .misalignedWord := by
  simp only [wordAccessOk, Bool.or_eq_false_iff, decide_eq_false_iff_not] at h
  unfold State.wordAddress
  rw [h.1]
  cases hm : s.platform.misaligned
  · simp
  · exact absurd hm h.2

theorem State.wordAddress_eq_ok {s : State} {a b : Word} :
    s.wordAddress a = .ok b ↔ wordAccessOk s a = true ∧ b = alignDown a := by
  cases h : wordAccessOk s a
  · simp [State.wordAddress_of_not_ok h]
  · simp [State.wordAddress_of_ok h, @eq_comm _ b]

@[simp] theorem State.wordAddress_ne_abort {s t : State} {a : Word} : s.wordAddress a ≠ .abort t := by
  cases h : wordAccessOk s a
  · simp [State.wordAddress_of_not_ok h]
  · simp [State.wordAddress_of_ok h]

theorem low_two_toNat (a : Word) : (field a 0 2).toNat = a.toNat % 4 := by
  simp [field, BitVec.extractLsb'_toNat]

/-! ## Loads: a load that succeeds gives what memory holds, and one that aborts leaves the state as it was -/

theorem State.loadAligned_ok {s : State} {a : Word} (h : readable s a 4 = true) :
    s.loadAligned a = .ok (s.mem.word s.platform.bigEndian a) := by
  simp [State.loadAligned, State.access_read h]

theorem State.loadWord_ok {s : State} {a : Word} (h : wordAccessOk s a = true)
    (hr : readable s (alignDown a) 4 = true) : s.loadWord a = .ok (loadedWord s a) := by
  simp [State.loadWord, State.wordAddress_of_ok h, State.loadAligned_ok hr, loadedWord, low_two_toNat]

theorem State.loadHalf_ok {s : State} {a : Word} (h : a.getLsbD 0 = false) (hr : readable s a 2 = true) :
    s.loadHalf a = .ok (s.mem.half s.platform.bigEndian a) := by
  rw [State.loadHalf, h, State.access_read hr]; rfl

/-- An odd halfword address is refused before the access (R55). -/
theorem State.loadHalf_odd {s : State} {a : Word} (h : a.getLsbD 0 = true) :
    s.loadHalf a = .refused .misalignedHalf := by
  rw [State.loadHalf, h]; rfl

theorem State.storeHalf_odd {s : State} {a : Word} {v : Half} (h : a.getLsbD 0 = true) :
    s.storeHalf a v = .refused .misalignedHalf := by
  rw [State.storeHalf, h]; rfl

theorem State.loadByte_ok {s : State} {a : Word} (hr : readable s a 1 = true) : s.loadByte a = .ok (s.mem.read a) := by
  simp [State.loadByte, State.access_read hr]

theorem State.loadAligned_eq_abort {s t : State} {a : Word} :
    s.loadAligned a = .abort t ↔ s.platform.abortsAt .read a 4 = true ∧ t = s := by
  simp [State.loadAligned, Attempt.andThen_eq_abort, State.access_eq_abort]

theorem State.loadWord_eq_abort {s t : State} {a : Word} :
    s.loadWord a = .abort t ↔ wordAccessOk s a = true ∧ s.platform.abortsAt .read (alignDown a) 4 = true ∧ t = s := by
  cases h : wordAccessOk s a
  · simp [State.loadWord, State.wordAddress_of_not_ok h]
  · simp [State.loadWord, State.wordAddress_of_ok h, Attempt.andThen_eq_abort, State.loadAligned_eq_abort]

theorem State.loadHalf_eq_abort {s t : State} {a : Word} :
    s.loadHalf a = .abort t ↔ a.getLsbD 0 = false ∧ s.platform.abortsAt .read a 2 = true ∧ t = s := by
  simp [State.loadHalf, require_eq_abort, Attempt.andThen_eq_abort, State.access_eq_abort]

theorem State.loadByte_eq_abort {s t : State} {a : Word} :
    s.loadByte a = .abort t ↔ s.platform.abortsAt .read a 1 = true ∧ t = s := by
  simp [State.loadByte, Attempt.andThen_eq_abort, State.access_eq_abort]

/-- A block load that aborts leaves the state as it was. -/
theorem State.loadWords_eq_abort {s t : State} {a : Word} {n : Nat} (h : s.loadWords a n = .abort t) : t = s := by
  induction n generalizing a with
  | zero => simp [State.loadWords] at h
  | succ k ih =>
    rw [State.loadWords, Attempt.andThen_eq_abort] at h
    rcases h with h | ⟨v, _, h⟩
    · exact (State.loadAligned_eq_abort.mp h).2
    · rw [Attempt.andThen_eq_abort] at h
      rcases h with h | ⟨vs, _, h⟩
      · exact ih h
      · simp at h

/-! ## Stores: a store that succeeds changes memory alone, and one that aborts leaves the state as it was -/

theorem State.storeAligned_eq_ok {s t : State} {a v : Word} :
    s.storeAligned a v = .ok t ↔ writable s a 4 = true ∧ t = s.setMem (s.mem.setWord s.platform.bigEndian a v) := by
  rw [State.storeAligned, Attempt.andThen_eq_ok]
  simp only [State.access_eq_ok, writable, Bool.and_eq_true, Bool.not_eq_true', Attempt.ok.injEq, 
    forall_const, @eq_comm _ t, and_assoc, exists_const]

theorem State.storeAligned_eq_abort {s t : State} {a v : Word} :
    s.storeAligned a v = .abort t ↔ s.platform.abortsAt .write a 4 = true ∧ t = s := by
  simp [State.storeAligned, Attempt.andThen_eq_abort, State.access_eq_abort]

theorem State.storeWord_eq_ok {s t : State} {a v : Word} :
    s.storeWord a v = .ok t ↔ wordAccessOk s a = true ∧ writable s (alignDown a) 4 = true ∧
      t = s.setMem (s.mem.setWord s.platform.bigEndian (alignDown a) v) := by
  cases h : wordAccessOk s a
  · simp [State.storeWord, State.wordAddress_of_not_ok h]
  · simp [State.storeWord, State.wordAddress_of_ok h, State.storeAligned_eq_ok]

theorem State.storeWord_eq_abort {s t : State} {a v : Word} :
    s.storeWord a v = .abort t ↔
      wordAccessOk s a = true ∧ s.platform.abortsAt .write (alignDown a) 4 = true ∧ t = s := by
  cases h : wordAccessOk s a
  · simp [State.storeWord, State.wordAddress_of_not_ok h]
  · simp [State.storeWord, State.wordAddress_of_ok h, State.storeAligned_eq_abort]

theorem State.storeHalf_eq_ok {s t : State} {a : Word} {v : Half} :
    s.storeHalf a v = .ok t ↔ a.getLsbD 0 = false ∧ writable s a 2 = true ∧
      t = s.setMem (s.mem.setHalf s.platform.bigEndian a v) := by
  rw [State.storeHalf, require_eq_ok, Attempt.andThen_eq_ok]
  simp only [State.access_eq_ok, writable, Bool.and_eq_true, Bool.not_eq_true', Attempt.ok.injEq, forall_const,
    @eq_comm _ t, and_assoc, exists_const]

theorem State.storeHalf_eq_abort {s t : State} {a : Word} {v : Half} :
    s.storeHalf a v = .abort t ↔ a.getLsbD 0 = false ∧ s.platform.abortsAt .write a 2 = true ∧ t = s := by
  simp [State.storeHalf, require_eq_abort, Attempt.andThen_eq_abort, State.access_eq_abort]

theorem State.storeByte_eq_ok {s t : State} {a : Word} {v : Byte} :
    s.storeByte a v = .ok t ↔ writable s a 1 = true ∧ t = s.setMem (s.mem.write a v) := by
  rw [State.storeByte, Attempt.andThen_eq_ok]
  simp only [State.access_eq_ok, writable, Bool.and_eq_true, Bool.not_eq_true', Attempt.ok.injEq, forall_const,
    @eq_comm _ t, and_assoc, exists_const]

theorem State.storeByte_eq_abort {s t : State} {a : Word} {v : Byte} :
    s.storeByte a v = .abort t ↔ s.platform.abortsAt .write a 1 = true ∧ t = s := by
  simp [State.storeByte, Attempt.andThen_eq_abort, State.access_eq_abort]

end Sys2Proof.Machine
end

