-- ==== Sys2Proof/Laws/Psr.lean ====
section
/-! SUPPORT. The fields of a status register after each operation that writes one (R37). -/

namespace Sys2Proof.Machine

theorem psrM_eq_of_field {p q : Word} (h : field p 0 28 = field q 0 28) :
    psrM p = psrM q ∧ psrT p = psrT q ∧ psrI p = psrI q ∧ psrF p = psrF q ∧ psrClean p = psrClean q := by
  have hb : ∀ i, i < 28 → p.getLsbD i = q.getLsbD i := fun i hi => by
    simpa [hi] using congrArg (BitVec.getLsbD · i) h
  have hf : ∀ lo n, lo + n ≤ 28 → field p lo n = field q lo n := fun lo n hl =>
    BitVec.eq_of_getLsbD_eq fun i hi => by
      simpa [hi] using hb (lo + i) (by omega)
  exact ⟨hf 0 5 (by omega), hb 5 (by omega), hb 7 (by omega), hb 6 (by omega), by
    simp only [psrClean, hf 8 20 (by omega)]⟩

/-! ## The flags replaced (R31) -/

theorem getLsbD_psrWithFlags (p : Word) (f : Nzcv) (i : Nat) (h : i < 28) :
    (psrWithFlags p f).getLsbD i = p.getLsbD i := by
  have h0 : ∀ b : Bool, ∀ k, 28 ≤ k → ((place k (bit b) : Word)).getLsbD i = false := by
    intro b k hk
    rw [getLsbD_place]
    have : ¬ k ≤ i := by omega
    simp [this]
  simp only [psrWithFlags, BitVec.getLsbD_or, h0 _ 31 (by omega), h0 _ 30 (by omega), h0 _ 29 (by omega),
    h0 _ 28 (by omega), getLsbD_place, getLsbD_field]
  have h32 : i < 32 := by omega
  simp [h, h32]

@[simp] theorem psrFlags_psrWithFlags (p : Word) (f : Nzcv) : psrFlags (psrWithFlags p f) = f := by
  simp [psrFlags, psrN, psrZ, psrC, psrV, psrWithFlags]

@[simp] theorem field_psrWithFlags (p : Word) (f : Nzcv) : field (psrWithFlags p f) 0 28 = field p 0 28 :=
  BitVec.eq_of_getLsbD_eq fun i hi => by simp [hi, getLsbD_psrWithFlags p f i hi]

@[simp] theorem psrM_psrWithFlags (p : Word) (f : Nzcv) : psrM (psrWithFlags p f) = psrM p :=
  (psrM_eq_of_field (field_psrWithFlags p f)).1

@[simp] theorem psrT_psrWithFlags (p : Word) (f : Nzcv) : psrT (psrWithFlags p f) = psrT p :=
  (psrM_eq_of_field (field_psrWithFlags p f)).2.1

@[simp] theorem psrClean_psrWithFlags (p : Word) (f : Nzcv) : psrClean (psrWithFlags p f) = psrClean p :=
  (psrM_eq_of_field (field_psrWithFlags p f)).2.2.2.2

@[simp] theorem State.setFlags_bank (s : State) (f : Nzcv) : (s.setFlags f).bank = s.bank := by
  simp [State.bank]

/-! ## The entry of an exception (R243) -/

theorem psrM_entryPsr (e : Exn) (p : Word) : psrM (entryPsr e p) = e.mode.bits := by
  simp [psrM, entryPsr, field_or, field_place_above, field_place_sub]

theorem psrT_entryPsr (e : Exn) (p : Word) : psrT (entryPsr e p) = false := by
  cases e <;> simp [psrT, entryPsr, Exn.mode, Mode.bits]

theorem psrI_entryPsr (e : Exn) (p : Word) : psrI (entryPsr e p) = true := by
  simp [psrI, entryPsr]

theorem psrF_entryPsr (e : Exn) (p : Word) : psrF (entryPsr e p) = (decide (e = .fiq) || psrF p) := by
  cases e <;> simp [psrF, entryPsr, Exn.mode, Mode.bits]

theorem field_entryPsr (e : Exn) (p : Word) : field (entryPsr e p) 8 24 = field p 8 24 := by
  simp [entryPsr, field_or, field_place_below, field_place_self]

theorem psrClean_of_field {p q : Word} (h : field p 8 24 = field q 8 24) : psrClean p = psrClean q := by
  have : field p 8 20 = field q 8 20 := BitVec.eq_of_getLsbD_eq fun i hi => by
    have h24 : i < 24 := by omega
    simpa [hi, h24] using congrArg (BitVec.getLsbD · i) h
  simp only [psrClean, this]

theorem psrFlags_of_field {p q : Word} (h : field p 8 24 = field q 8 24) : psrFlags p = psrFlags q := by
  have hb : ∀ i, i < 24 → p.getLsbD (8 + i) = q.getLsbD (8 + i) := fun i hi => by
    simpa [hi] using congrArg (BitVec.getLsbD · i) h
  simp only [psrFlags, psrN, psrZ, psrC, psrV, hb 23 (by omega), hb 22 (by omega), hb 21 (by omega), hb 20 (by omega)]

/-! ## A reset event (R280) -/

theorem psrM_resetPsr (n : Nat) : psrM (resetPsr n) = 0b10011#5 := by
  simp [psrM, resetPsr, field_or, field_place_above, field_place_sub]

theorem psrT_resetPsr (n : Nat) : psrT (resetPsr n) = false := by simp [psrT, resetPsr]

theorem psrI_resetPsr (n : Nat) : psrI (resetPsr n) = true := by simp [psrI, resetPsr]

theorem psrF_resetPsr (n : Nat) : psrF (resetPsr n) = true := by simp [psrF, resetPsr]

theorem psrClean_resetPsr (n : Nat) : psrClean (resetPsr n) = true := by
  simp [psrClean, resetPsr, field_or, field_place_above, field_place_below]

theorem psrClean_drawnSpsr (n : Nat) : psrClean (drawnSpsr n) = true := by
  simp only [psrClean, decide_eq_true_eq]
  apply BitVec.eq_of_getLsbD_eq
  intro i hi
  simp only [drawnSpsr, getLsbD_field, BitVec.getLsbD_and, psrImplemented]
  have : i = 0 ∨ i = 1 ∨ i = 2 ∨ i = 3 ∨ i = 4 ∨ i = 5 ∨ i = 6 ∨ i = 7 ∨ i = 8 ∨ i = 9 ∨ i = 10 ∨ i = 11 ∨ i = 12 ∨
    i = 13 ∨ i = 14 ∨ i = 15 ∨ i = 16 ∨ i = 17 ∨ i = 18 ∨ i = 19 := by omega
  rcases this with rfl | rfl | rfl | rfl | rfl | rfl | rfl | rfl | rfl | rfl | rfl | rfl | rfl | rfl | rfl | rfl | rfl |
    rfl | rfl | rfl <;> simp

/-! ## MSR (R142) -/

theorem getLsbD_mergeBits (old new mask : Word) (i : Nat) :
    (mergeBits old new mask).getLsbD i = if mask.getLsbD i then new.getLsbD i else old.getLsbD i := by
  simp only [mergeBits, BitVec.getLsbD_or, BitVec.getLsbD_and, BitVec.getLsbD_not]
  by_cases h : i < 32
  · cases mask.getLsbD i <;> simp [h]
  · have h2 : 32 ≤ i := by omega
    simp [BitVec.getLsbD_of_ge _ _ h2]

theorem getLsbD_fieldMask (fields : BitVec 4) (i : Nat) (h : i < 32) :
    (fieldMask fields).getLsbD i = fields.getLsbD (i / 8) := by
  have key : ∀ (f : BitVec 4) (k : Fin 32), (fieldMask f).getLsbD k.val = f.getLsbD (k.val / 8) := by decide
  exact key fields ⟨i, h⟩

end Sys2Proof.Machine
end

