-- ==== Sys2Proof/Laws/Exceptions.lean ====
section
/-! SUPPORT. What taking an exception leaves (R243, R253): the whole of it in one lemma, `State.enter_entered`. -/

namespace Sys2Proof.Machine

@[simp] theorem State.enter_pc (s : State) (e : Exn) : (s.enter e).pc = e.vector := rfl
@[simp] theorem State.enter_prefetched (s : State) (e : Exn) : (s.enter e).prefetched = none := rfl
@[simp] theorem State.enter_cpsr (s : State) (e : Exn) : (s.enter e).cpsr = entryPsr e s.cpsr := rfl
@[simp] theorem State.enter_mem (s : State) (e : Exn) : (s.enter e).mem = s.mem := by cases e <;> rfl
@[simp] theorem State.enter_lines (s : State) (e : Exn) : (s.enter e).lines = s.lines := by cases e <;> rfl
@[simp] theorem State.enter_upcoming (s : State) (e : Exn) : (s.enter e).upcoming = s.upcoming := by cases e <;> rfl
@[simp] theorem State.enter_platform (s : State) (e : Exn) : (s.enter e).platform = s.platform := by cases e <;> rfl
@[simp] theorem State.enter_draws (s : State) (e : Exn) : (s.enter e).draws = s.draws := by cases e <;> rfl

theorem State.enter_phys (s : State) (e : Exn) (q : PhysReg) :
    (s.enter e).phys q = if physReg e.bank 14#4 = q then s.pc + e.linkOffset else s.phys q := by
  rw [← State.phys_setPhys]; cases e <;> rfl

theorem State.enter_spsrOf_self (s : State) (e : Exn) : (s.enter e).spsrOf e.bank = some s.cpsr := by cases e <;> rfl

theorem State.enter_spsrOf_ne (s : State) (e : Exn) (b : Bank) (h : b ≠ e.bank) :
    (s.enter e).spsrOf b = s.spsrOf b := by
  cases e <;> cases b <;> first | rfl | exact absurd rfl h

/-- The bank of the mode entered is the bank of its mode bits. -/
theorem bankOf_mode_bits (e : Exn) : bankOf e.mode.bits = e.bank := by cases e <;> rfl

theorem Exn.bank_ne_usr (e : Exn) : e.bank ≠ .usr := by cases e <;> decide

/-- Everything that taking an exception does. -/
theorem State.enter_entered (s : State) (e : Exn) :
    Entered s (s.enter e) e.bank e.mode.bits (s.pc + e.linkOffset) e.vector (decide (e = .fiq)) := by
  refine ⟨⟨?_, s.enter_spsrOf_self e, ⟨rfl, rfl⟩, psrM_entryPsr e _, psrT_entryPsr e _, psrI_entryPsr e _, psrF_entryPsr e _,
    field_entryPsr e _, ?_, s.enter_spsrOf_ne e, ⟨by simp, by simp, by simp⟩, by simp⟩, fun b => by simp⟩
  · simp [State.enter_phys]
  · intro p hp
    have : physReg e.bank 14#4 ≠ p := fun h => hp (by simp [h])
    simp [State.enter_phys, this]

end Sys2Proof.Machine
end

