-- ==== Sys2Proof/Laws/Effects.lean ====
section
/-! SUPPORT. What the shared endings of the meanings do, each in one lemma: a register written, flags written, both. -/

namespace Sys2Proof.Machine

/-! ## The frame -/

theorem frame_refl (s : State) (ps : List PhysReg) : Frame s s ps :=
  ⟨fun _ _ => rfl, fun _ => rfl, ⟨rfl, rfl, rfl⟩, rfl⟩

theorem sameBytes_refl (s : State) : SameBytes s s := fun _ => rfl

theorem flagsBecome_refl (s : State) : FlagsBecome s s (psrFlags s.cpsr) := ⟨rfl, rfl⟩

theorem frame_pc (s : State) (v : Word) : Frame s (s.setPc v) [] :=
  ⟨fun _ _ => rfl, fun b => by simp, ⟨rfl, rfl, rfl⟩, rfl⟩

theorem frame_jump (s : State) (v : Word) : Frame s (s.jump v) [] :=
  ⟨fun _ _ => rfl, fun b => by simp, ⟨rfl, rfl, rfl⟩, rfl⟩

theorem frame_setReg (s : State) (r : Reg) (v w : Word) :
    Frame s ((s.setReg r v).setPc w) [physReg s.bank r] := by
  refine ⟨fun p hp => ?_, fun b => by simp, ⟨rfl, rfl, rfl⟩, rfl⟩
  have : physReg s.bank r ≠ p := fun h => hp (by simp [h])
  simp [State.phys_setReg, this]

/-- A register written, the pc advanced, nothing else. -/
theorem State.setReg_advance {s : State} (r : Reg) (v : Word) (hpc : fallsThrough s = true) :
    ∃ t, (s.setReg r v).advance = .ok t ∧ t.phys (physReg s.bank r) = v ∧ Plain s t [physReg s.bank r] := by
  have h : (s.setReg r v).pc ≠ 0xFFFFFFFC#32 := by simpa [fallsThrough] using hpc
  refine ⟨_, State.advance_of_ne h, ?_, ?_, ?_, ?_, ?_⟩
  · simp [State.phys_setReg]
  · exact ⟨by simp, by simp⟩
  · simp
  · exact frame_setReg s r v _
  · intro b; simp

/-- The flags written, the pc advanced, nothing else. -/
theorem State.setFlags_advance {s : State} (f : Nzcv) (hpc : fallsThrough s = true) :
    ∃ t, (s.setFlags f).advance = .ok t ∧ Advances s t ∧ FlagsBecome s t f ∧ Frame s t [] ∧ SameBytes s t := by
  have h : (s.setFlags f).pc ≠ 0xFFFFFFFC#32 := by simpa [fallsThrough] using hpc
  exact ⟨_, State.advance_of_ne h, ⟨by simp, by simp⟩, ⟨by simp, by simp⟩,
    ⟨fun _ _ => by simp, fun b => by simp, ⟨rfl, rfl, rfl⟩, rfl⟩, fun b => by simp⟩

/-! ## Data processing -/

/-- Rd written, with S the flags, the pc advanced, nothing else (R114). -/
theorem dpWrite_result {s : State} (sb : Bool) {rd : Reg} (result : Word) (flags : Nzcv) (hrd : rd ≠ 15#4)
    (hpc : fallsThrough s = true) :
    ∃ t, dpWrite s sb rd result flags = .ok t ∧ t.phys (physReg s.bank rd) = result ∧ Advances s t ∧
      FlagsBecome s t (if sb then flags else psrFlags s.cpsr) ∧ Frame s t [physReg s.bank rd] ∧ SameBytes s t := by
  have hp : isPc rd = false := isPc_eq_false.mpr hrd
  cases sb
  · obtain ⟨t, ht, hv, h1, h2, h3, h4⟩ := State.setReg_advance rd result hpc
    exact ⟨t, by simpa [dpWrite, hp] using ht, hv, h1, ⟨by simp [h2], by rw [h2]⟩, h3, h4⟩
  · have h : ((s.setReg rd result).setFlags flags).pc ≠ 0xFFFFFFFC#32 := by simpa [fallsThrough] using hpc
    refine ⟨_, by simpa [dpWrite, hp] using State.advance_of_ne h, ?_, ⟨by simp, by simp⟩, ⟨by simp, by simp⟩, ?_, fun b => by simp⟩
    · simp [State.phys_setReg]
    · refine ⟨fun p hp => ?_, fun b => by simp, ⟨rfl, rfl, rfl⟩, rfl⟩
      have : physReg s.bank rd ≠ p := fun e => hp (by simp [e])
      simp [State.phys_setReg, this]

/-- A result for a register is refused whole past the last word of memory (R28; log 21). -/
theorem dpWrite_wrap {s : State} {sb : Bool} {rd : Reg} {result : Word} {flags : Nzcv} (hrd : rd ≠ 15#4)
    (hpc : fallsThrough s = false) : dpWrite s sb rd result flags = .refused .pcWrap := by
  have hp : isPc rd = false := isPc_eq_false.mpr hrd
  have h : s.pc = 0xFFFFFFFC#32 := by simpa [fallsThrough] using hpc
  cases sb <;> simp [dpWrite, hp] <;> exact State.advance_of_eq (by simpa using h)

/-- With Rd = R15 and no S the result is jumped to (R113). -/
theorem dpWrite_jump (s : State) (result : Word) (flags : Nzcv) :
    dpWrite s false 15#4 result flags = s.writePc result := by simp [dpWrite, isPc]

/-- With Rd = R15 and S it is an exception return (R113). -/
theorem dpWrite_return (s : State) (result : Word) (flags : Nzcv) :
    dpWrite s true 15#4 result flags = s.exceptionReturn result := by simp [dpWrite, isPc]

end Sys2Proof.Machine
end

