-- ==== Sys2Proof/Laws/Block.lean ====
section
/-! SUPPORT. Block transfers: which register of a list has which word, the words loaded, the words stored and where they
read back, the registers written (R172, R173). -/

namespace Sys2Proof.Machine

/-! ## The refusals before the transfer (R36, R173, R176, R177, R178) -/

/-- Without `^`, and from a mode that has an SPSR, only the refusals that show in the word remain. -/
theorem checkedBlock_of_mode {s : State} {load sb w : Bool} {rn : Reg} {list : BitVec 16} {k : Attempt State}
    (h : sb = false ∨ hasSpsr s = true) (hb : blockOk w rn list = true) (hu : userBankOk load sb w list = true) :
    checkedBlock s load sb w rn list k = k := by
  have hm : userBankModeOk s load sb list = true ∧ returnModeOk s load sb list = true := by
    rcases h with rfl | h
    · simp [userBankModeOk, returnModeOk, usesUserBank]
    · have : s.bank ≠ .usr := by simpa [hasSpsr] using h
      simp [userBankModeOk, returnModeOk, this]
  simp [checkedBlock, require, hb, hu, hm]

/-- LDM with `^` and R15 in User or System mode is refused before a word is loaded. -/
theorem checkedBlock_noSpsr {s : State} {w : Bool} {rn : Reg} {list : BitVec 16} {k : Attempt State}
    (hs : hasSpsr s = false) (hl : list.getLsbD 15 = true) (hb : blockOk w rn list = true) :
    checkedBlock s true true w rn list k = .refused .noSpsr := by
  have : s.bank = .usr := by simpa [hasSpsr] using hs
  simp [checkedBlock, require, hb, userBankOk, userBankModeOk, returnModeOk, usesUserBank, listHasPc, hl, this]

/-! ## The list of registers (R172) -/

theorem getElem?_filter_append {α : Type} (p : α → Bool) (l1 l2 : List α) (r : α) (h : p r = true) :
    ((l1 ++ r :: l2).filter p)[(l1.filter p).length]? = some r := by
  simp [List.filter_append, h]

theorem length_filter_range (list : BitVec 16) (l : List Reg) (n : Nat) (h : l.map BitVec.toNat = List.range n) :
    (l.filter fun r => list.getLsbD r.toNat).length = ((List.range n).filter fun k => list.getLsbD k).length := by
  rw [← h, List.filter_map, List.length_map]; rfl

/-- The register of the list with `rank` listed registers below it stands at that place. -/
theorem regsOf_getElem?_rank (list : BitVec 16) (r : Reg) (h : list.getLsbD r.toNat = true) :
    (regsOf list)[rank list r]? = some r := by
  have split : ∃ l1 l2, ([0#4, 1#4, 2#4, 3#4, 4#4, 5#4, 6#4, 7#4, 8#4, 9#4, 10#4, 11#4, 12#4, 13#4, 14#4, 15#4] : List Reg) =
      l1 ++ r :: l2 ∧ l1.map BitVec.toNat = List.range r.toNat := by
    have key : ∀ r : Reg, ([0#4, 1#4, 2#4, 3#4, 4#4, 5#4, 6#4, 7#4, 8#4, 9#4, 10#4, 11#4, 12#4, 13#4, 14#4, 15#4] : List Reg) =
        [0#4, 1#4, 2#4, 3#4, 4#4, 5#4, 6#4, 7#4, 8#4, 9#4, 10#4, 11#4, 12#4, 13#4, 14#4, 15#4].take r.toNat ++ r ::
          [0#4, 1#4, 2#4, 3#4, 4#4, 5#4, 6#4, 7#4, 8#4, 9#4, 10#4, 11#4, 12#4, 13#4, 14#4, 15#4].drop (r.toNat + 1) ∧
        ([0#4, 1#4, 2#4, 3#4, 4#4, 5#4, 6#4, 7#4, 8#4, 9#4, 10#4, 11#4, 12#4, 13#4, 14#4, 15#4].take r.toNat).map
          BitVec.toNat = List.range r.toNat := by decide
    exact ⟨_, _, key r⟩
  obtain ⟨l1, l2, hl, hm⟩ := split
  rw [regsOf, hl, rank, ← length_filter_range list l1 r.toNat hm]
  exact getElem?_filter_append _ l1 l2 r h

theorem mem_regsOf (list : BitVec 16) (r : Reg) : r ∈ regsOf list ↔ list.getLsbD r.toNat = true := by
  have key : ∀ r : Reg,
      r ∈ ([0#4, 1#4, 2#4, 3#4, 4#4, 5#4, 6#4, 7#4, 8#4, 9#4, 10#4, 11#4, 12#4, 13#4, 14#4, 15#4] : List Reg) := by
    decide
  simp [regsOf, key r]

theorem nodup_regsOf (list : BitVec 16) : (regsOf list).Nodup := List.Nodup.filter _ (by decide)

theorem length_regsOf (list : BitVec 16) : (regsOf list).length = count list :=
  length_filter_range list _ 16 (by decide)

theorem count_le (list : BitVec 16) : count list ≤ 16 :=
  (List.length_filter_le _ _).trans (by simp)

theorem rank_lt_count (list : BitVec 16) (r : Reg) (h : list.getLsbD r.toNat = true) : rank list r < count list := by
  have := regsOf_getElem?_rank list r h
  rw [← length_regsOf]
  exact (List.getElem?_eq_some_iff.mp this).1

/-- Every place of the list is the rank of a listed register. -/
theorem exists_rank (list : BitVec 16) (k : Nat) (h : k < count list) :
    ∃ r, list.getLsbD r.toNat = true ∧ rank list r = k := by
  have hk : k < (regsOf list).length := by rwa [length_regsOf]
  have hmem := (mem_regsOf list (regsOf list)[k]).mp (List.getElem_mem hk)
  refine ⟨(regsOf list)[k], hmem, ?_⟩
  have h1 := regsOf_getElem?_rank list _ hmem
  obtain ⟨h2, h3⟩ := List.getElem?_eq_some_iff.mp h1
  exact (List.Nodup.getElem_inj_iff (nodup_regsOf list)).mp h3

theorem rank_mono (list : BitVec 16) {q r : Reg} (h : q.toNat ≤ r.toNat) : rank list q ≤ rank list r := by
  obtain ⟨d, hd⟩ := Nat.exists_eq_add_of_le h
  rw [rank, rank, hd, List.range_add, List.filter_append, List.length_append]
  exact Nat.le_add_right _ _

/-- The listed registers of a lower rank are those of a lower number. -/
theorem exists_lower (list : BitVec 16) {q : Reg} {k : Nat} (hq : list.getLsbD q.toNat = true) (h : k < rank list q) :
    ∃ r : Reg, r.toNat < q.toNat ∧ list.getLsbD r.toNat = true ∧ rank list r = k := by
  obtain ⟨r, hr, hk⟩ := exists_rank list k (h.trans (rank_lt_count list q hq))
  refine ⟨r, Nat.lt_of_not_le fun hle => ?_, hr, hk⟩
  have := rank_mono list hle
  omega

/-- R15 is the last of the list. -/
theorem rank_pc (list : BitVec 16) (h : list.getLsbD 15 = true) : rank list 15#4 + 1 = count list := by
  have e : (15#4).toNat = 15 := rfl
  have : List.range 16 = List.range 15 ++ [15] := rfl
  rw [rank, count, e, this, List.filter_append, List.length_append]
  simp [h]

/-! ## Addresses -/

theorem mem_addrBytes (a b : Word) (n : Nat) (hn : n ≤ 4294967296) : b ∈ addrBytes a n ↔ (b - a).toNat < n := by
  induction n generalizing a with
  | zero => simp [addrBytes]
  | succ k ih =>
    rw [addrBytes, List.mem_cons, ih (a + 1) (by omega)]
    have hb := b.isLt
    have ha := a.isLt
    constructor
    · rintro (rfl | h)
      · simp
      · bv_omega
    · intro h
      by_cases e : b = a
      · exact .inl e
      · exact .inr (by bv_omega)

/-- The word after the first of a block. -/
theorem word_after (a : Word) (j : Nat) : a + 4 + BitVec.ofNat 32 (4 * j) = a + BitVec.ofNat 32 (4 * (j + 1)) := by
  rw [BitVec.add_assoc, show (4 : Word) = BitVec.ofNat 32 4 from rfl, ← BitVec.ofNat_add]
  congr 2; omega

/-! ## The words loaded -/

theorem State.loadWords_ok {s : State} {a : Word} {n : Nat}
    (h : ∀ k, k < n → readable s (a + BitVec.ofNat 32 (4 * k)) 4 = true) :
    s.loadWords a n =
      .ok ((List.range n).map fun k => s.mem.word s.platform.bigEndian (a + BitVec.ofNat 32 (4 * k))) := by
  induction n generalizing a with
  | zero => rfl
  | succ k ih =>
    have h0 := h 0 (by omega)
    have e0 : a + BitVec.ofNat 32 (4 * 0) = a := by simp
    rw [e0] at h0
    rw [State.loadWords, State.loadAligned_ok h0, Attempt.andThen_ok,
      ih (a := a + 4) (fun j hj => by rw [word_after]; exact h (j + 1) (by omega)), Attempt.andThen_ok, List.range_succ_eq_map,
      List.map_cons, List.map_map, e0]
    have tail : ((List.range k).map fun j => s.mem.word s.platform.bigEndian (a + 4 + BitVec.ofNat 32 (4 * j))) =
        (List.range k).map
          ((fun j => s.mem.word s.platform.bigEndian (a + BitVec.ofNat 32 (4 * j))) ∘ Nat.succ) :=
      List.map_congr_left fun j _ => by rw [Function.comp_apply, word_after]
    rw [tail]

/-- A block load is the load of its first words and then of the others. -/
theorem State.loadWords_add (s : State) (a : Word) (m n : Nat) :
    s.loadWords a (m + n) = (s.loadWords a m).andThen fun vs =>
      (s.loadWords (a + BitVec.ofNat 32 (4 * m)) n).andThen fun ws => .ok (vs ++ ws) := by
  induction m generalizing a with
  | zero =>
    simp only [Nat.zero_add, State.loadWords, Attempt.andThen_ok, Nat.mul_zero, BitVec.add_zero,
      List.nil_append]
    cases s.loadWords a n <;> rfl
  | succ k ih =>
    rw [Nat.succ_add, State.loadWords, State.loadWords, ih, word_after]
    cases s.loadAligned a <;> try rfl
    cases s.loadWords (a + 4) k <;> try rfl
    simp only [Attempt.andThen_ok]
    cases s.loadWords (a + BitVec.ofNat 32 (4 * (k + 1))) n <;> rfl

/-! ## The words stored -/

/-- A block store is the store of its first words and then of the others. -/
theorem State.storeWords_append (s : State) (a : Word) (xs ys : List Word) :
    s.storeWords a (xs ++ ys) =
      (s.storeWords a xs).andThen fun t => t.storeWords (a + BitVec.ofNat 32 (4 * xs.length)) ys := by
  induction xs generalizing s a with
  | nil => simp [State.storeWords]
  | cons x xs ih =>
    rw [List.cons_append, State.storeWords, State.storeWords]
    cases s.storeAligned a x <;> try rfl
    simp only [Attempt.andThen_ok, ih, word_after, List.length_cons]

/-- A block store that is not aborted changes memory alone: each word reads back at its address, and every byte outside
reads as before. -/
theorem State.storeWords_ok {s : State} {a : Word} {vs : List Word} (hm : s.mem.wf = true) (hn : vs.length ≤ 16)
    (h : ∀ k, k < vs.length → writable s (a + BitVec.ofNat 32 (4 * k)) 4 = true) :
    ∃ m : Memory, s.storeWords a vs = .ok (s.setMem m) ∧ m.wf = true ∧
      (∀ k, (hk : k < vs.length) → m.word s.platform.bigEndian (a + BitVec.ofNat 32 (4 * k)) = vs[k]) ∧
      ∀ b, b ∉ addrBytes a (4 * vs.length) → m.read b = s.mem.read b := by
  induction vs generalizing s a with
  | nil => exact ⟨s.mem, rfl, hm, fun k hk => absurd hk (by simp), fun b _ => rfl⟩
  | cons v rest ih =>
    have e0 : a + BitVec.ofNat 32 (4 * 0) = a := by simp
    have h0 := h 0 (by simp)
    rw [e0] at h0
    simp only [List.length_cons] at hn h
    obtain ⟨m, hs, hwf, hword, hout⟩ := ih (s := s.setMem (s.mem.setWord s.platform.bigEndian a v)) (a := a + 4)
      (Memory.wf_setWord hm _ _ _) (by omega) (fun k hk => by rw [word_after]; exact h (k + 1) (by omega))
    refine ⟨m, ?_, hwf, ?_, ?_⟩
    · rw [State.storeWords, State.storeAligned_eq_ok.mpr ⟨h0, rfl⟩, Attempt.andThen_ok, hs]; rfl
    · intro k hk
      cases k with
      | zero =>
        rw [e0]
        have : m.word s.platform.bigEndian a = (s.mem.setWord s.platform.bigEndian a v).word s.platform.bigEndian a := by
          apply Memory.word_congr
          intro b hb
          apply hout
          rw [mem_addrBytes _ _ _ (by omega)] at hb ⊢
          have := a.isLt
          have := b.isLt
          bv_omega
        rw [this, Memory.word_setWord hm]; rfl
      | succ j =>
        have := hword j (by simpa using hk)
        simp only [State.setMem_platform] at this
        rw [← word_after, this]; rfl
    · intro b hb
      simp only [List.length_cons] at hb
      rw [mem_addrBytes _ _ _ (by omega)] at hb
      have h1 : b ∉ addrBytes (a + 4) (4 * rest.length) := by
        rw [mem_addrBytes _ _ _ (by omega)]
        have := a.isLt
        have := b.isLt
        bv_omega
      have h2 : b ∉ addrBytes a 4 := by
        rw [mem_addrBytes _ _ _ (by omega)]
        omega
      rw [hout b h1, State.setMem_mem, Memory.read_setWord_outside _ _ _ _ _ h2]

/-! ## The registers written -/

@[simp] theorem writeLoaded_frame (s : State) (user : Bool) (rs : List Reg) (vs : List Word) :
    (writeLoaded s user rs vs).pc = s.pc ∧ (writeLoaded s user rs vs).cpsr = s.cpsr ∧
    (writeLoaded s user rs vs).mem = s.mem ∧ (writeLoaded s user rs vs).lines = s.lines ∧
    (writeLoaded s user rs vs).upcoming = s.upcoming ∧ (writeLoaded s user rs vs).platform = s.platform ∧
    (writeLoaded s user rs vs).draws = s.draws ∧ ∀ b, (writeLoaded s user rs vs).spsrOf b = s.spsrOf b := by
  induction rs generalizing s vs with
  | nil => simp [writeLoaded]
  | cons r rs ih =>
    cases vs with
    | nil => simp [writeLoaded]
    | cons v vs =>
      have := ih (if isPc r then s else if user then s.setUserReg r v else s.setReg r v) vs
      rw [writeLoaded]
      by_cases h1 : isPc r = true
      · simpa [h1] using this
      · cases user <;> simpa [h1] using this

/-- Where the registers of a list are written: in the current or the User bank. -/
def loadBank (s : State) (user : Bool) : Bank := if user then .usr else s.bank

theorem writeLoaded_phys_other (s : State) (user : Bool) (rs : List Reg) (vs : List Word) (q : PhysReg)
    (h : ∀ r, r ∈ rs → r ≠ 15#4 → physReg (loadBank s user) r ≠ q) :
    (writeLoaded s user rs vs).phys q = s.phys q := by
  induction rs generalizing s vs with
  | nil => simp [writeLoaded]
  | cons r rs ih =>
    cases vs with
    | nil => simp [writeLoaded]
    | cons v vs =>
      rw [writeLoaded]
      by_cases h1 : r = 15#4
      · have : isPc r = true := by simp [isPc, h1]
        simp only [this, if_true]
        exact ih s vs fun x hx => h x (List.mem_cons_of_mem _ hx)
      · have hp : isPc r = false := isPc_eq_false.mpr h1
        have hr := h r List.mem_cons_self h1
        simp only [hp, Bool.false_eq_true, if_false]
        cases user
        · simp only [Bool.false_eq_true, if_false]
          rw [ih (s.setReg r v) vs fun x hx => h x (List.mem_cons_of_mem _ hx)]
          rw [State.phys_setReg]; simp only [loadBank, Bool.false_eq_true, if_false] at hr; simp [hr]
        · simp only [if_true]
          rw [ih (s.setUserReg r v) vs fun x hx => h x (List.mem_cons_of_mem _ hx)]
          rw [State.phys_setUserReg]; simp only [loadBank, if_true] at hr; simp [hr]

theorem writeLoaded_phys_listed (s : State) (user : Bool) (rs : List Reg) (vs : List Word) (hn : rs.Nodup) (k : Nat)
    (r : Reg) (v : Word) (hr : rs[k]? = some r) (hv : vs[k]? = some v) (h15 : r ≠ 15#4) :
    (writeLoaded s user rs vs).phys (physReg (loadBank s user) r) = v := by
  induction rs generalizing s vs k with
  | nil => simp at hr
  | cons x rs ih =>
    cases vs with
    | nil => simp at hv
    | cons y vs =>
      rw [List.nodup_cons] at hn
      rw [writeLoaded]
      cases k with
      | zero =>
        simp only [List.getElem?_cons_zero, Option.some.injEq] at hr hv
        subst hr hv
        have hp : isPc x = false := isPc_eq_false.mpr h15
        simp only [hp, Bool.false_eq_true, if_false]
        have other : ∀ b : Bank, ∀ z, z ∈ rs → z ≠ 15#4 → physReg b z ≠ physReg b x := fun b z hz hz15 e =>
          hn.1 (physReg_inj b hz15 h15 e ▸ hz)
        cases user
        · simp only [Bool.false_eq_true, if_false]
          rw [writeLoaded_phys_other]
          · simp [loadBank, State.phys_setReg]
          · exact other _
        · simp only [if_true]
          rw [writeLoaded_phys_other]
          · simp [loadBank, State.phys_setUserReg]
          · exact other _
      | succ j =>
        simp only [List.getElem?_cons_succ] at hr hv
        by_cases h1 : isPc x = true
        · simp only [h1, if_true]; exact ih s vs hn.2 j hr hv
        · cases user
          · simp only [h1, Bool.false_eq_true, if_false]; exact ih (s.setReg x y) vs hn.2 j hr hv
          · simp only [h1, Bool.false_eq_true, if_false, if_true]; exact ih (s.setUserReg x y) vs hn.2 j hr hv

end Sys2Proof.Machine
end

