-- ==== Sys2Proof/Laws/Exec.lean ====
section
/-! SUPPORT. What all meanings share: each is under the condition of its instruction (30_encoding.md R75). -/

namespace Sys2Proof.Machine

/-- Every instruction runs some body under its condition. -/
theorem exec_conditional (i : Instr) (s : State) : ∃ body, exec i s = conditional i.cond s body := by
  cases i <;> exact ⟨_, rfl⟩

/-- Where the condition fails, the pc advances and nothing else happens. -/
theorem exec_failed {i : Instr} {s : State} (h : condPassed i.cond s.cpsr = false) : exec i s = s.advance.outcome := by
  obtain ⟨body, e⟩ := exec_conditional i s
  rw [e, conditional_failed h]

end Sys2Proof.Machine
end

