-- ==== Sys2Proof/Laws/Transfers.lean ====
section
/-! SUPPORT. How the transfers end: the base written back, then the destination, then the pc (R153, R212). -/

namespace Sys2Proof.Machine

theorem writeBack_of_moves {t : State} {p w : Bool} {rn : Reg} {target : Word} (h : movesBase p w = true) :
    writeBack t p w rn target = t.setReg rn target := by
  simp only [movesBase] at h; simp only [writeBack, h, if_true]

theorem writeBack_of_stays {t : State} {p w : Bool} {rn : Reg} {target : Word} (h : movesBase p w = false) :
    writeBack t p w rn target = t := by
  simp only [movesBase] at h; simp only [writeBack, h, Bool.false_eq_true, if_false]

/-- Where the base moves, it is not R15 and not the other register (R158, R217). -/
theorem writeBackOk_of_moves {p w : Bool} {rn rd : Reg} (h : writeBackOk p w rn rd = true)
    (hm : movesBase p w = true) : rn ≠ 15#4 ∧ rn ≠ rd := by
  simp only [movesBase] at hm
  simpa [writeBackOk, hm, isPc] using h

/-- A load that ends in a register: the base is written back, Rd holds the value, nothing else changes. -/
theorem State.loadEnd {s : State} {p w : Bool} (u : Bool) {rn rd : Reg} (offset v : Word) (hrd : rd ≠ 15#4)
    (hwb : writeBackOk p w rn rd = true) (hpc : fallsThrough s = true) :
    ∃ t, (writeBack s p w rn (transferTarget s u rn offset)).putReg rd v = .ok t ∧
      t.phys (physReg s.bank rd) = v ∧ BaseAfter s t p u w rn offset ∧
      Plain s t (physReg s.bank rd :: baseMoved s p w rn) := by
  rw [State.putReg_of_ne hrd]
  cases hm : movesBase p w
  · obtain ⟨t, ht, hv, hp⟩ := State.setReg_advance rd v hpc
    refine ⟨t, by rw [writeBack_of_stays hm]; exact ht, hv, fun h => ?_, ?_⟩
    · rw [hm] at h; exact absurd h (by decide)
    · simpa [baseMoved, hm] using hp
  · obtain ⟨h15, hne⟩ := writeBackOk_of_moves hwb hm
    have hpc' : ((s.setReg rn (transferTarget s u rn offset)).setReg rd v).pc ≠ 0xFFFFFFFC#32 := by
      simpa [fallsThrough] using hpc
    refine ⟨_, by rw [writeBack_of_moves hm]; exact State.advance_of_ne hpc', ?_, ?_, ⟨by simp, by simp⟩, by simp, ?_,
      fun b => by simp⟩
    · simp [State.phys_setReg]
    · intro _
      have : physReg s.bank rd ≠ physReg s.bank rn := fun e => hne (physReg_inj _ hrd h15 e).symm
      simp [State.phys_setReg, this]
    · refine ⟨fun q hq => ?_, fun b => by simp, ⟨rfl, rfl, rfl⟩, rfl⟩
      simp only [baseMoved, hm, if_true, List.mem_cons, List.not_mem_nil, or_false, not_or] at hq
      simp [State.phys_setReg, Ne.symm hq.1, Ne.symm hq.2]

/-- A store's end: the base is written back, nothing else but memory changes. -/
theorem State.storeEnd {s : State} {p w : Bool} (u : Bool) {rn : Reg} (offset : Word) (m : Memory)
    (hpc : fallsThrough s = true) :
    ∃ t, (writeBack (s.setMem m) p w rn (transferTarget s u rn offset)).advance = .ok t ∧ t.mem = m ∧
      BaseAfter s t p u w rn offset ∧ Advances s t ∧ t.cpsr = s.cpsr ∧ Frame s t (baseMoved s p w rn) := by
  have h : s.pc ≠ 0xFFFFFFFC#32 := by simpa [fallsThrough] using hpc
  cases hm : movesBase p w
  · refine ⟨(s.setMem m).setPc (s.pc + 4), by rw [writeBack_of_stays hm]; exact State.advance_of_ne h, by simp,
      fun e => ?_, ⟨by simp, by simp⟩, by simp, fun q _ => by simp, fun b => by simp, ⟨rfl, rfl, rfl⟩, rfl⟩
    rw [hm] at e; exact absurd e (by decide)
  · refine ⟨((s.setMem m).setReg rn (transferTarget s u rn offset)).setPc (s.pc + 4),
      by rw [writeBack_of_moves hm]; exact State.advance_of_ne h, by simp,
      fun _ => ?_, ⟨by simp, by simp⟩, by simp, fun q hq => ?_, fun b => by simp, ⟨rfl, rfl, rfl⟩, rfl⟩
    · simp [State.phys_setReg]
    · simp only [baseMoved, hm, if_true, List.mem_cons, List.not_mem_nil, or_false] at hq
      simp [State.phys_setReg, Ne.symm hq]

/-- A load that ends in R15: the base is written back and the pc holds the value (R28). -/
theorem State.jumpEnd {s : State} {p w : Bool} (u : Bool) {rn : Reg} (offset v : Word) (hv : wordAligned v = true) :
    ∃ t, (writeBack s p w rn (transferTarget s u rn offset)).putReg 15#4 v = .ok t ∧ JumpsTo t v ∧
      BaseAfter s t p u w rn offset ∧ t.cpsr = s.cpsr ∧ Frame s t (baseMoved s p w rn) ∧ SameBytes s t := by
  rw [State.putReg_pc, State.writePc_of_aligned hv]
  refine ⟨_, rfl, ⟨rfl, rfl⟩, ?_⟩
  cases hm : movesBase p w
  · rw [writeBack_of_stays hm]
    refine ⟨fun e => ?_, by simp, ⟨fun q _ => by simp, fun b => by simp, ⟨rfl, rfl, rfl⟩, rfl⟩, fun b => by simp⟩
    rw [hm] at e; exact absurd e (by decide)
  · rw [writeBack_of_moves hm]
    refine ⟨fun _ => by simp [State.phys_setReg], by simp,
      ⟨fun q hq => ?_, fun b => by simp, ⟨rfl, rfl, rfl⟩, rfl⟩, fun b => by simp⟩
    simp only [baseMoved, hm, if_true, List.mem_cons, List.not_mem_nil, or_false] at hq
    simp [State.phys_setReg, Ne.symm hq]

end Sys2Proof.Machine
end

