-- ==== Sys2Proof/Laws/Fetched.lean ====
section
/-! SUPPORT. The words fetched ahead (10_state.md R27, R41 (b), 70_reset_and_hazards.md R288): every instruction keeps them
and goes on to pc + 4, or transfers control and drops them. -/

namespace Sys2Proof.Machine

/-! ## Fetching ahead changes nothing else -/

@[simp] theorem State.fetchAhead_pc (s : State) : s.fetchAhead.pc = s.pc := rfl
@[simp] theorem State.fetchAhead_cpsr (s : State) : s.fetchAhead.cpsr = s.cpsr := rfl
@[simp] theorem State.fetchAhead_mem (s : State) : s.fetchAhead.mem = s.mem := rfl
@[simp] theorem State.fetchAhead_lines (s : State) : s.fetchAhead.lines = s.lines := rfl
@[simp] theorem State.fetchAhead_upcoming (s : State) : s.fetchAhead.upcoming = s.upcoming := rfl
@[simp] theorem State.fetchAhead_platform (s : State) : s.fetchAhead.platform = s.platform := rfl
@[simp] theorem State.fetchAhead_draws (s : State) : s.fetchAhead.draws = s.draws := rfl
@[simp] theorem State.fetchAhead_bank (s : State) : s.fetchAhead.bank = s.bank := rfl
@[simp] theorem State.fetchAhead_phys (s : State) (q : PhysReg) : s.fetchAhead.phys q = s.phys q := rfl
@[simp] theorem State.fetchAhead_spsrOf (s : State) (b : Bank) : s.fetchAhead.spsrOf b = s.spsrOf b := rfl
@[simp] theorem State.fetchAhead_prefetched (s : State) :
    s.fetchAhead.prefetched = some (s.wordNext, s.mem.word s.platform.bigEndian (s.pc + 8)) := rfl

/-! ## Keeping them or dropping them -/

/-- What succeeds goes on to pc + 4 with the words fetched ahead, or has dropped them. -/
def Flows (s : State) (x : Attempt State) : Prop := ∀ t, x = .ok t → t.prefetched = none ∨ Advances s t

theorem flows_require {s : State} {b : Bool} {r : Refusal} {k : Attempt State} (h : Flows s k) :
    Flows s (require b r k) := fun t e => h t (require_eq_ok.mp e).2

theorem flows_andThen {α : Type} {s : State} {x : Attempt α} {k : α → Attempt State}
    (h : ∀ a, x = .ok a → Flows s (k a)) : Flows s (x.andThen k) := fun t e => by
  obtain ⟨a, ha, hk⟩ := Attempt.andThen_eq_ok.mp e
  exact h a ha t hk

theorem flows_advance {s u : State} (h : u.pc = s.pc ∧ u.prefetched = s.prefetched) : Flows s u.advance := fun t e => by
  obtain ⟨_, rfl⟩ := State.advance_eq_ok.mp e
  exact .inr ⟨by simp [h.1], by simp [h.2]⟩

theorem flows_writePc (s u : State) (v : Word) : Flows s (u.writePc v) := fun t e => by
  obtain ⟨_, rfl⟩ := State.writePc_eq_ok.mp e
  exact .inl rfl

theorem flows_exceptionReturn (s u : State) (v : Word) : Flows s (u.exceptionReturn v) := fun t e => by
  obtain ⟨p, _, _, _, _, rfl⟩ := State.exceptionReturn_eq_ok.mp e
  exact .inl rfl

theorem flows_enter (s : State) (e : Exn) : Flows s (.ok (s.enter e)) := fun t h => by
  cases h; exact .inl rfl

theorem flows_putReg {s u : State} (r : Reg) (v : Word) (h : u.pc = s.pc ∧ u.prefetched = s.prefetched) :
    Flows s (u.putReg r v) := by
  unfold State.putReg; split
  · exact flows_writePc s u v
  · exact flows_advance (by simpa using h)

/-! ## The shared endings -/

theorem flows_dpWrite (s : State) (sb : Bool) (rd : Reg) (result : Word) (flags : Nzcv) :
    Flows s (dpWrite s sb rd result flags) := by
  unfold dpWrite; split
  · cases sb
    · exact flows_writePc s s _
    · exact flows_exceptionReturn s s _
  · cases sb <;> exact flows_advance ⟨rfl, rfl⟩

theorem flows_setFlags (s : State) (f : Nzcv) : Flows s (s.setFlags f).advance := flows_advance ⟨rfl, rfl⟩

theorem State.storeAligned_pc {s t : State} {a v : Word} (h : s.storeAligned a v = .ok t) :
    t.pc = s.pc ∧ t.prefetched = s.prefetched := by
  obtain ⟨_, rfl⟩ := State.storeAligned_eq_ok.mp h; exact ⟨rfl, rfl⟩

theorem State.storeWords_pc {s t : State} {a : Word} {vs : List Word} (h : s.storeWords a vs = .ok t) :
    t.pc = s.pc ∧ t.prefetched = s.prefetched := by
  induction vs generalizing s a with
  | nil => cases h; exact ⟨rfl, rfl⟩
  | cons v rest ih =>
    rw [State.storeWords] at h
    obtain ⟨u, hu, ht⟩ := Attempt.andThen_eq_ok.mp h
    obtain ⟨h1, h2⟩ := State.storeAligned_pc hu
    obtain ⟨h3, h4⟩ := ih ht
    exact ⟨h3.trans h1, h4.trans h2⟩

theorem writeBack_pc (t : State) (p w : Bool) (rn : Reg) (v : Word) :
    (writeBack t p w rn v).pc = t.pc ∧ (writeBack t p w rn v).prefetched = t.prefetched := by
  unfold writeBack; split <;> exact ⟨rfl, rfl⟩

theorem writeLoaded_pc (s : State) (user : Bool) (rs : List Reg) (vs : List Word) :
    (writeLoaded s user rs vs).pc = s.pc ∧ (writeLoaded s user rs vs).prefetched = s.prefetched := by
  induction rs generalizing s vs with
  | nil => simp [writeLoaded]
  | cons r rs ih =>
    cases vs with
    | nil => simp [writeLoaded]
    | cons v vs =>
      rw [writeLoaded]
      refine (ih _ vs).imp (·.trans ?_) (·.trans ?_) <;> cases isPc r <;> cases user <;> rfl

theorem flows_loadSingle (s : State) (byte p u w : Bool) (rn rd : Reg) (offset : Word) :
    Flows s (loadSingle s byte p u w rn rd offset) :=
  flows_andThen fun v _ => flows_putReg rd v (writeBack_pc ..)

theorem flows_storeSingle (s : State) (byte p u w : Bool) (rn rd : Reg) (offset : Word) :
    Flows s (storeSingle s byte p u w rn rd offset) :=
  flows_andThen fun t ht => flows_advance (by
    have : t.pc = s.pc ∧ t.prefetched = s.prefetched := by
      cases byte
      · obtain ⟨_, _, rfl⟩ := State.storeWord_eq_ok.mp ht; exact ⟨rfl, rfl⟩
      · obtain ⟨_, rfl⟩ := State.storeByte_eq_ok.mp ht; exact ⟨rfl, rfl⟩
    exact ⟨(writeBack_pc ..).1.trans this.1, (writeBack_pc ..).2.trans this.2⟩)

theorem flows_loadExtended (s : State) (p u w : Bool) (rn rd : Reg) (offset : Word) (datum : Word → Attempt Word) :
    Flows s (loadExtended s p u w rn rd offset datum) :=
  flows_andThen fun v _ => flows_putReg rd v (writeBack_pc ..)

theorem flows_storeHalfword (s : State) (p u w : Bool) (rn rd : Reg) (offset : Word) :
    Flows s (storeHalfword s p u w rn rd offset) :=
  flows_andThen fun t ht => flows_advance (by
    obtain ⟨_, _, rfl⟩ := State.storeHalf_eq_ok.mp ht
    exact writeBack_pc ..)

theorem flows_ldm (s : State) (m : BlockMode) (sb w : Bool) (rn : Reg) (list : BitVec 16) :
    Flows s (ldm s m sb w rn list) :=
  flows_andThen fun base _ => flows_andThen fun vs _ => by
    simp only
    split
    · cases sb
      · exact flows_writePc _ _ _
      · exact flows_exceptionReturn _ _ _
    · refine flows_advance ⟨(writeLoaded_pc ..).1.trans ?_, (writeLoaded_pc ..).2.trans ?_⟩ <;> cases w <;> rfl

theorem flows_stm (s : State) (m : BlockMode) (sb w : Bool) (rn : Reg) (list : BitVec 16) :
    Flows s (stm s m sb w rn list) :=
  flows_andThen fun base _ => flows_andThen fun t ht => flows_advance (by
    have := State.storeWords_pc ht
    cases w <;> exact this)

theorem flows_checkedBlock {s : State} {load sb w : Bool} {rn : Reg} {list : BitVec 16} {k : Attempt State}
    (h : Flows s k) : Flows s (checkedBlock s load sb w rn list k) :=
  flows_require (flows_require (flows_require h))

theorem flows_finishMul (s : State) (sb : Bool) (rd : Reg) (result : Word) : Flows s (finishMul s sb rd result) := by
  unfold finishMul; cases sb <;> exact flows_advance ⟨rfl, rfl⟩

theorem flows_finishLong (s : State) (sb : Bool) (hi lo : Reg) (result : BitVec 64) :
    Flows s (finishLong s sb hi lo result) := by
  unfold finishLong; cases sb <;> exact flows_advance ⟨rfl, rfl⟩

theorem flows_swapWord (s : State) (rn rd rm : Reg) : Flows s (swapWord s rn rd rm) :=
  flows_andThen fun v _ => flows_andThen fun t ht => flows_advance (by
    obtain ⟨_, _, rfl⟩ := State.storeWord_eq_ok.mp ht; exact ⟨rfl, rfl⟩)

theorem flows_swapByte (s : State) (rn rd rm : Reg) : Flows s (swapByte s rn rd rm) :=
  flows_andThen fun v _ => flows_andThen fun t ht => flows_advance (by
    obtain ⟨_, rfl⟩ := State.storeByte_eq_ok.mp ht; exact ⟨rfl, rfl⟩)

theorem flows_msr (s : State) (spsr : Bool) (fields : BitVec 4) (operand : Word) :
    Flows s (msr s spsr fields operand) :=
  flows_andThen fun t ht => flows_advance (by
    cases spsr
    · simp only [Bool.false_eq_true, if_false, writeCpsrFields] at ht
      split at ht
      · cases ht; exact ⟨rfl, rfl⟩
      · obtain ⟨_, h⟩ := require_eq_ok.mp ht
        obtain ⟨_, h⟩ := require_eq_ok.mp h
        cases h; exact ⟨rfl, rfl⟩
    · simp only [if_true, writeSpsrFields] at ht
      split at ht
      · cases ht
      · cases ht; simp)

/-! ## Every instruction -/

theorem flows_conditional {c : Cond} {s t : State} {body : Attempt State} (hb : Flows s body)
    (h : conditional c s body = .next t) : t.prefetched = none ∨ Advances s t := by
  cases hc : condPassed c s.cpsr
  · rw [conditional_failed hc] at h
    rcases Attempt.outcome_eq_next.mp h with h | ⟨u, h, rfl⟩
    · exact flows_advance ⟨rfl, rfl⟩ t h
    · exact .inl rfl
  · rw [conditional_passed hc] at h
    rcases Attempt.outcome_eq_next.mp h with h | ⟨u, h, rfl⟩
    · exact hb t h
    · exact .inl rfl

/-- The static refusals before a body leave it as it was. -/
theorem flows_checkedSingleImm {s : State} {byte p w : Bool} {rn rd : Reg} {k : Attempt State} (h : Flows s k) :
    Flows s (checkedSingleImm byte p w rn rd k) := flows_require (flows_require h)

theorem flows_checkedSingleReg {s : State} {byte p w : Bool} {rn rd rm : Reg} {k : Attempt State} (h : Flows s k) :
    Flows s (checkedSingleReg byte p w rn rd rm k) := flows_require (flows_require h)

theorem flows_checkedHalfImm {s : State} {p w : Bool} {rn rd : Reg} {k : Attempt State} (h : Flows s k) :
    Flows s (checkedHalfImm p w rn rd k) := flows_require (flows_require h)

theorem flows_checkedHalfReg {s : State} {p w : Bool} {rn rd rm : Reg} {k : Attempt State} (h : Flows s k) :
    Flows s (checkedHalfReg p w rn rd rm k) := flows_require (flows_require h)

theorem flows_dpLogical (s : State) (sb : Bool) (rd : Reg) (result : Word) (carry : Bool) :
    Flows s (dpLogical s sb rd result carry) := flows_dpWrite _ _ _ _ _

theorem flows_dpArith (s : State) (sb : Bool) (rd : Reg) (r : AddOut) : Flows s (dpArith s sb rd r) :=
  flows_dpWrite _ _ _ _ _

theorem flows_dpTest (s : State) (result : Word) (carry : Bool) : Flows s (dpTest s result carry) :=
  flows_setFlags _ _

theorem flows_dpCompare (s : State) (r : AddOut) : Flows s (dpCompare s r) := flows_setFlags _ _

/-- Every instruction keeps the words fetched ahead and goes on to pc + 4, or transfers control and drops them. -/
theorem exec_flows {i : Instr} {s t : State} (h : exec i s = .next t) : t.prefetched = none ∨ Advances s t := by
  cases i <;> refine flows_conditional ?_ h <;>
    with_reducible
      repeat first
      | exact flows_dpLogical _ _ _ _ _
      | exact flows_dpArith _ _ _ _
      | exact flows_dpTest _ _ _
      | exact flows_dpCompare _ _
      | exact flows_loadSingle _ _ _ _ _ _ _ _
      | exact flows_storeSingle _ _ _ _ _ _ _ _
      | exact flows_loadExtended _ _ _ _ _ _ _ _
      | exact flows_storeHalfword _ _ _ _ _ _ _
      | exact flows_ldm _ _ _ _ _ _
      | exact flows_stm _ _ _ _ _ _
      | exact flows_finishMul _ _ _ _
      | exact flows_finishLong _ _ _ _ _
      | exact flows_swapWord _ _ _ _
      | exact flows_swapByte _ _ _ _
      | exact flows_msr _ _ _ _
      | exact flows_writePc _ _ _
      | exact flows_enter _ _
      | refine flows_checkedSingleImm ?_
      | refine flows_checkedSingleReg ?_
      | refine flows_checkedHalfImm ?_
      | refine flows_checkedHalfReg ?_
      | refine flows_checkedBlock ?_
      | refine flows_require ?_
      | exact flows_andThen fun _ _ => flows_advance ⟨rfl, rfl⟩

/-! ## The step -/

theorem runWord_flows {w : Word} {s t : State} (h : runWord w s = .next t) : t.prefetched = none ∨ Advances s t := by
  unfold runWord at h
  generalize decode w = d at h
  cases d with
  | ok i =>
    change (if tierRefused i s then .refused .tier2NotAdmitted else exec i s) = Host.Outcome.next t at h
    by_cases ht : tierRefused i s = true
    · rw [if_pos ht] at h; cases h
    · rw [if_neg ht] at h; exact exec_flows h
  | reserved c =>
    refine flows_conditional ?_ h
    split
    · intro _ e; cases e
    · exact flows_enter _ _
  | neverCondition => cases h
  | notOneWord => cases h

/-- A step has dropped the words fetched ahead, or went on to pc + 4 with those fetched before its effect. -/
theorem stepCore_flows {s t : State} (h : stepCore s = .next t) :
    t.prefetched = none ∨ Advances s.fetchAhead t := by
  unfold stepCore at h
  by_cases he : s.ended = true
  · rw [if_pos he] at h; cases h
  rw [if_neg he] at h
  by_cases hr : s.lines.reset = true
  · rw [if_pos hr] at h; exact .inl (Host.Outcome.next.inj h ▸ rfl)
  rw [if_neg hr] at h
  generalize s.interrupt = i at h
  cases i with
  | some x => exact .inl (Host.Outcome.next.inj h ▸ rfl)
  | none =>
    generalize s.fetch = f at h
    cases f with
    | abort => exact .inl (Host.Outcome.next.inj h ▸ rfl)
    | unmapped => cases h
    | word w => exact runWord_flows h

/-- The environment's move changes the lines and the schedule alone (log 12). -/
theorem State.tick_eq (s : State) : s.tick = { s with lines := s.tick.lines, upcoming := s.tick.upcoming } := by
  unfold State.tick; split <;> rfl

end Sys2Proof.Machine
end

