-- ==== Sys2Proof/Laws/Multiply.lean ====
section
/-! SUPPORT. What the endings of the multiplies do (R191 to R198), each in one lemma. -/

namespace Sys2Proof.Machine

/-- MUL and MLA: Rd holds the result, with S the flags N and Z say what it is and V is kept. -/
theorem finishMul_result {s : State} (sb : Bool) (rd : Reg) (result : Word) (hpc : fallsThrough s = true) :
    ∃ t, finishMul s sb rd result = .ok t ∧ t.phys (physReg s.bank rd) = result ∧
      MultiplyFrame s t sb result.toNat 2147483648 [physReg s.bank rd] ∧ psrV t.cpsr = psrV s.cpsr := by
  have h : s.pc ≠ 0xFFFFFFFC#32 := by simpa [fallsThrough] using hpc
  have msb : result.getLsbD 31 = decide (2147483648 ≤ result.toNat) := by
    have : result.getLsbD 31 = result.msb := by rw [BitVec.msb_eq_getLsbD_last]
    rw [this, BitVec.msb_eq_decide]
  have zero : decide (result = 0#32) = decide (result.toNat = 0) := by
    rw [decide_eq_decide]; exact ⟨fun e => by rw [e]; rfl, fun e => BitVec.eq_of_toNat_eq (by simpa using e)⟩
  have other : ∀ q, q ∉ [physReg s.bank rd] → physReg s.bank rd ≠ q := fun q hq e => hq (by simp [e])
  cases sb
  · have h2 : (s.setReg rd result).pc ≠ 0xFFFFFFFC#32 := h
    refine ⟨(s.setReg rd result).setPc (s.pc + 4), State.advance_of_ne h2, by simp [State.phys_setReg],
      ⟨⟨rfl, rfl⟩, fun e => (Bool.noConfusion e), fun _ => ⟨rfl, rfl⟩, rfl, fun q hq => ?_, fun b => by simp,
        ⟨rfl, rfl, rfl⟩, fun b => by simp⟩, rfl⟩
    simp [State.phys_setReg, other q hq]
  · generalize hf : mulFlags s result = f
    have hp : psrFlags (psrWithFlags s.cpsr f) = f := by simp
    have hn : psrN (psrWithFlags s.cpsr f) = f.n := congrArg Nzcv.n hp
    have hz : psrZ (psrWithFlags s.cpsr f) = f.z := congrArg Nzcv.z hp
    have hv : psrV (psrWithFlags s.cpsr f) = f.v := congrArg Nzcv.v hp
    have h2 : (((s.setReg rd result).setFlags f).drew 1).pc ≠ 0xFFFFFFFC#32 := h
    have e : finishMul s true rd result = .ok ((((s.setReg rd result).setFlags f).drew 1).setPc (s.pc + 4)) := by
      rw [finishMul, hf]; exact State.advance_of_ne h2
    refine ⟨_, e, by simp [State.phys_setReg],
      ⟨⟨rfl, rfl⟩, fun _ => ⟨hn.trans (by rw [← hf]; exact msb), hz.trans (by rw [← hf]; exact zero)⟩,
        fun e => (Bool.noConfusion e), by simp, fun q hq => ?_, fun b => by simp, ⟨rfl, rfl, rfl⟩,
        fun b => by simp⟩, hv.trans (by rw [← hf]; rfl)⟩
    simp [State.phys_setReg, other q hq]

/-- The long multiplies: RdHi and RdLo hold the result, with S the flags N and Z say what it is. -/
theorem finishLong_result {s : State} (sb : Bool) {rdHi rdLo : Reg} (result : BitVec 64) (hne : rdHi ≠ rdLo)
    (hHi : rdHi ≠ 15#4) (hLo : rdLo ≠ 15#4) (hpc : fallsThrough s = true) :
    ∃ t, finishLong s sb rdHi rdLo result = .ok t ∧ pairOf t s.bank rdHi rdLo = result.toNat ∧
      MultiplyFrame s t sb result.toNat 9223372036854775808 [physReg s.bank rdHi, physReg s.bank rdLo] := by
  have h : s.pc ≠ 0xFFFFFFFC#32 := by simpa [fallsThrough] using hpc
  have msb : result.getLsbD 63 = decide (9223372036854775808 ≤ result.toNat) := by
    have : result.getLsbD 63 = result.msb := by rw [BitVec.msb_eq_getLsbD_last]
    rw [this, BitVec.msb_eq_decide]
  have zero : decide (result = 0#64) = decide (result.toNat = 0) := by
    rw [decide_eq_decide]; exact ⟨fun e => by rw [e]; rfl, fun e => BitVec.eq_of_toNat_eq (by simpa using e)⟩
  have hp : physReg s.bank rdHi ≠ physReg s.bank rdLo := fun e => hne (physReg_inj _ hHi hLo e)
  have halves : (result.extractLsb' 32 32).toNat * 4294967296 + (result.extractLsb' 0 32).toNat = result.toNat := by
    have := result.isLt
    simp only [BitVec.extractLsb'_toNat, Nat.shiftRight_eq_div_pow]; omega
  obtain ⟨u, hu⟩ : ∃ u, (s.setReg rdLo (result.extractLsb' 0 32)).setReg rdHi (result.extractLsb' 32 32) = u := ⟨_, rfl⟩
  have pair : pairOf u s.bank rdHi rdLo = result.toNat := by
    rw [← hu]; simpa [pairOf, State.phys_setReg, hp] using halves
  have regs : ∀ q, q ∉ [physReg s.bank rdHi, physReg s.bank rdLo] → u.phys q = s.phys q := fun q hq => by
    simp only [List.mem_cons, List.not_mem_nil, or_false, not_or] at hq
    rw [← hu]; simp [State.phys_setReg, Ne.symm hq.1, Ne.symm hq.2]
  have pc : u.pc = s.pc := by rw [← hu]; rfl
  have ahead : u.prefetched = s.prefetched := by rw [← hu]; rfl
  have cpsr : u.cpsr = s.cpsr := by rw [← hu]; rfl
  have mem : u.mem = s.mem := by rw [← hu]; rfl
  have spsrs : SameSpsrs s u := fun b => by rw [← hu]; simp
  have around : SameSurroundings s u ∧ u.draws = s.draws := by rw [← hu]; exact ⟨⟨rfl, rfl, rfl⟩, rfl⟩
  have h2 : u.pc ≠ 0xFFFFFFFC#32 := by rw [pc]; exact h
  cases sb
  · have e : finishLong s false rdHi rdLo result = .ok (u.setPc (u.pc + 4)) := by
      rw [finishLong, hu]; exact State.advance_of_ne h2
    refine ⟨_, e, pair, ⟨by rw [pc]; rfl, ahead⟩, fun e => (Bool.noConfusion e), fun _ => ⟨cpsr, around.2⟩, ?_, regs, spsrs,
      around.1, fun b => congrArg (Memory.read · b) mem⟩
    exact congrArg (field · 0 28) cpsr
  · generalize hf : longFlags s result = f
    have hp : psrFlags (psrWithFlags u.cpsr f) = f := by simp
    have hn : psrN (psrWithFlags u.cpsr f) = f.n := congrArg Nzcv.n hp
    have hz : psrZ (psrWithFlags u.cpsr f) = f.z := congrArg Nzcv.z hp
    have e : finishLong s true rdHi rdLo result = .ok (((u.setFlags f).drew 2).setPc (u.pc + 4)) := by
      rw [finishLong, hu, hf]; exact State.advance_of_ne (s := (u.setFlags f).drew 2) h2
    refine ⟨_, e, pair, ⟨by rw [pc]; rfl, ahead⟩,
      fun _ => ⟨hn.trans (by rw [← hf]; exact msb), hz.trans (by rw [← hf]; exact zero)⟩,
      fun e => (Bool.noConfusion e), ?_, regs, spsrs, around.1, fun b => congrArg (Memory.read · b) mem⟩
    rw [← cpsr]; simp

end Sys2Proof.Machine
end

