-- ==== Sys2Proof/Tests/Slice0.lean ====
section
/-! SUPPORT. Tests: the operand checks refuse an ill-formed term each; a word of every row decodes to its instruction; one
step of the worked examples and vectors of 95_test_vectors.md (its number or section is named); and, for every statement
with hypotheses, states and operands that meet them. -/

namespace Sys2Proof.Tests

open Sys2Proof Sys2Proof.Machine

set_option maxRecDepth 4000

/-! ## Small states -/

/-- The reset state at 0x8000 with a CPSR, some registers and some words of memory. -/
def st (cpsr : Word) (regs : List (PhysReg × Word)) (words : List (Word × Word)) : State :=
  words.foldl (fun s x => s.setMem (s.mem.setWord false x.1 x.2))
    (regs.foldl (fun s x => s.setPhys x.1 x.2) ((State.reset.setPc 0x8000).setCpsr cpsr))

/-- The platform changed. -/
def on (s : State) (f : Platform → Platform) : State := { s with platform := f s.platform }

/-- Accesses of a kind and a width at `a` are aborted, and no others. -/
def aborting (s : State) (kind : AccessKind) (a width : Nat) : State :=
  on s fun p => { p with aborts := [⟨kind, width, ⟨a, 1⟩⟩] }

/-- The request lines set. -/
def lined (s : State) (reset fiq irq : Bool) : State := { s with lines := ⟨reset, fiq, irq⟩ }

/-- The word decoded and executed. -/
def run (w : Word) (s : State) : Option State :=
  match decode w with
  | .ok i => match exec i s with | .next t => some t | _ => none
  | _ => none

/-- The word decoded and refused. -/
def refusal (w : Word) (s : State) : Option Refusal :=
  match decode w with
  | .ok i => match exec i s with | .refused r => some r | _ => none
  | _ => none

/-- N, Z, C, V as four bits. -/
def nzcv (t : State) : BitVec 4 := field t.cpsr 28 4

/-! ## Ill-formed terms -/

/-- Each operand check refuses a term (93_implementation_defined.md U20, U23 to U27, U29 to U32; D23, D24). -/
theorem test_wellFormed_refuses :
    shiftRegOk 15#4 = false ∧ mrsOk 15#4 = false ∧ msrOk 15#4 = false ∧ bxOk 15#4 = false ∧
    userTransfer false true = true ∧
    mulOk 0#4 1#4 0#4 = false ∧ mulOk 15#4 1#4 2#4 = false ∧ mulOk 0#4 15#4 2#4 = false ∧ mulOk 0#4 1#4 15#4 = false ∧
    mlaOk 0#4 15#4 1#4 2#4 = false ∧
    longOk 0#4 0#4 1#4 2#4 = false ∧ longOk 0#4 1#4 2#4 0#4 = false ∧ longOk 0#4 1#4 2#4 1#4 = false ∧
    swapOk 0#4 0#4 1#4 = false ∧ swapOk 0#4 1#4 0#4 = false ∧ swapOk 15#4 1#4 2#4 = false ∧
    writeBackOk true true 15#4 0#4 = false ∧ writeBackOk false false 1#4 1#4 = false ∧
    singleImmOk true true false 0#4 15#4 = false ∧ singleRegOk false true false 0#4 1#4 15#4 = false ∧
    singleRegOk false false false 0#4 1#4 0#4 = false ∧
    halfImmOk true false 0#4 15#4 = false ∧ halfRegOk true false 0#4 1#4 15#4 = false ∧
    blockOk false 0#4 0#16 = false ∧ blockOk false 15#4 1#16 = false ∧ blockOk true 0#4 1#16 = false ∧
    userBankOk true true true 0x0001#16 = false ∧ userBankOk false true true 0x8000#16 = false ∧
    userBankOk true true true 0x8000#16 = true := by
  decide

/-- An ill-formed instruction of each family with a check. -/
theorem test_wellFormed_terms :
    (Instr.addShiftReg .al false 0#4 1#4 15#4 .lsl 2#4).wellFormed = false ∧
    (Instr.mrs .al false 15#4).wellFormed = false ∧ (Instr.msrReg .al false 1#4 15#4).wellFormed = false ∧
    (Instr.bx .al 15#4).wellFormed = false ∧ (Instr.mul .al false 0#4 0#4 0#4).wellFormed = false ∧
    (Instr.mla .al false 0#4 1#4 2#4 0#4).wellFormed = false ∧
    (Instr.umull .al false 0#4 0#4 1#4 2#4).wellFormed = false ∧ (Instr.swp .al 0#4 0#4 1#4).wellFormed = false ∧
    (Instr.ldrImm .al true true true 1#4 1#4 4#12).wellFormed = false ∧
    (Instr.ldrImm .al false true true 1#4 0#4 4#12).wellFormed = false ∧
    (Instr.strbReg .al true true false 1#4 2#4 0#5 .lsl 15#4).wellFormed = false ∧
    (Instr.ldrhReg .al true true false 1#4 2#4 15#4).wellFormed = false ∧
    (Instr.strhImm .al true true false 1#4 15#4 0#8).wellFormed = false ∧
    (Instr.ldmia .al false true 0#4 0x0003#16).wellFormed = false ∧
    (Instr.stmdb .al true true 13#4 0x0003#16).wellFormed = false := by
  decide

/-! ## Decoding -/

/-- The rows of format `data_processing_imm` of spec/opcode_table.json, one word each (R72). -/
theorem test_decode_data_processing_imm :
    decode 0x020123A5#32 = .ok (.andImm .eq false 1#4 2#4 3#4 0xA5#8) ∧
    decode 0x323123A5#32 = .ok (.eorImm .cc true 1#4 2#4 3#4 0xA5#8) ∧
    decode 0x624123A5#32 = .ok (.subImm .vs false 1#4 2#4 3#4 0xA5#8) ∧
    decode 0x927123A5#32 = .ok (.rsbImm .ls true 1#4 2#4 3#4 0xA5#8) ∧
    decode 0xC28123A5#32 = .ok (.addImm .gt false 1#4 2#4 3#4 0xA5#8) ∧
    decode 0x02B123A5#32 = .ok (.adcImm .eq true 1#4 2#4 3#4 0xA5#8) ∧
    decode 0x32C123A5#32 = .ok (.sbcImm .cc false 1#4 2#4 3#4 0xA5#8) ∧
    decode 0x62F123A5#32 = .ok (.rscImm .vs true 1#4 2#4 3#4 0xA5#8) ∧
    decode 0x931103A5#32 = .ok (.tstImm .ls 1#4 3#4 0xA5#8) ∧
    decode 0xC33103A5#32 = .ok (.teqImm .gt 1#4 3#4 0xA5#8) ∧
    decode 0x035103A5#32 = .ok (.cmpImm .eq 1#4 3#4 0xA5#8) ∧
    decode 0x337103A5#32 = .ok (.cmnImm .cc 1#4 3#4 0xA5#8) ∧
    decode 0x638123A5#32 = .ok (.orrImm .vs false 1#4 2#4 3#4 0xA5#8) ∧
    decode 0x93B023A5#32 = .ok (.movImm .ls true 2#4 3#4 0xA5#8) ∧
    decode 0xC3C123A5#32 = .ok (.bicImm .gt false 1#4 2#4 3#4 0xA5#8) ∧
    decode 0x03F023A5#32 = .ok (.mvnImm .eq true 2#4 3#4 0xA5#8) := by
  decide

/-- The rows of format `data_processing_shift_imm` of spec/opcode_table.json, one word each (R72). -/
theorem test_decode_data_processing_shift_imm :
    decode 0x101128A4#32 = .ok (.andShiftImm .ne true 1#4 2#4 17#5 .lsr 4#4) ∧
    decode 0x40212884#32 = .ok (.eorShiftImm .mi false 1#4 2#4 17#5 .lsl 4#4) ∧
    decode 0x705128E4#32 = .ok (.subShiftImm .vc true 1#4 2#4 17#5 .ror 4#4) ∧
    decode 0xA06128C4#32 = .ok (.rsbShiftImm .ge false 1#4 2#4 17#5 .asr 4#4) ∧
    decode 0xD09128A4#32 = .ok (.addShiftImm .le true 1#4 2#4 17#5 .lsr 4#4) ∧
    decode 0x10A12884#32 = .ok (.adcShiftImm .ne false 1#4 2#4 17#5 .lsl 4#4) ∧
    decode 0x40D128E4#32 = .ok (.sbcShiftImm .mi true 1#4 2#4 17#5 .ror 4#4) ∧
    decode 0x70E128C4#32 = .ok (.rscShiftImm .vc false 1#4 2#4 17#5 .asr 4#4) ∧
    decode 0xA11108A4#32 = .ok (.tstShiftImm .ge 1#4 17#5 .lsr 4#4) ∧
    decode 0xD1310884#32 = .ok (.teqShiftImm .le 1#4 17#5 .lsl 4#4) ∧
    decode 0x115108E4#32 = .ok (.cmpShiftImm .ne 1#4 17#5 .ror 4#4) ∧
    decode 0x417108C4#32 = .ok (.cmnShiftImm .mi 1#4 17#5 .asr 4#4) ∧
    decode 0x719128A4#32 = .ok (.orrShiftImm .vc true 1#4 2#4 17#5 .lsr 4#4) ∧
    decode 0xA1A02884#32 = .ok (.movShiftImm .ge false 2#4 17#5 .lsl 4#4) ∧
    decode 0xD1D128E4#32 = .ok (.bicShiftImm .le true 1#4 2#4 17#5 .ror 4#4) ∧
    decode 0x11E028C4#32 = .ok (.mvnShiftImm .ne false 2#4 17#5 .asr 4#4) := by
  decide

/-- The rows of format `data_processing_shift_reg` of spec/opcode_table.json, one word each (R72). -/
theorem test_decode_data_processing_shift_reg :
    decode 0x20012554#32 = .ok (.andShiftReg .cs false 1#4 2#4 5#4 .asr 4#4) ∧
    decode 0x50312534#32 = .ok (.eorShiftReg .pl true 1#4 2#4 5#4 .lsr 4#4) ∧
    decode 0x80412514#32 = .ok (.subShiftReg .hi false 1#4 2#4 5#4 .lsl 4#4) ∧
    decode 0xB0712574#32 = .ok (.rsbShiftReg .lt true 1#4 2#4 5#4 .ror 4#4) ∧
    decode 0xE0812554#32 = .ok (.addShiftReg .al false 1#4 2#4 5#4 .asr 4#4) ∧
    decode 0x20B12534#32 = .ok (.adcShiftReg .cs true 1#4 2#4 5#4 .lsr 4#4) ∧
    decode 0x50C12514#32 = .ok (.sbcShiftReg .pl false 1#4 2#4 5#4 .lsl 4#4) ∧
    decode 0x80F12574#32 = .ok (.rscShiftReg .hi true 1#4 2#4 5#4 .ror 4#4) ∧
    decode 0xB1110554#32 = .ok (.tstShiftReg .lt 1#4 5#4 .asr 4#4) ∧
    decode 0xE1310534#32 = .ok (.teqShiftReg .al 1#4 5#4 .lsr 4#4) ∧
    decode 0x21510514#32 = .ok (.cmpShiftReg .cs 1#4 5#4 .lsl 4#4) ∧
    decode 0x51710574#32 = .ok (.cmnShiftReg .pl 1#4 5#4 .ror 4#4) ∧
    decode 0x81812554#32 = .ok (.orrShiftReg .hi false 1#4 2#4 5#4 .asr 4#4) ∧
    decode 0xB1B02534#32 = .ok (.movShiftReg .lt true 2#4 5#4 .lsr 4#4) ∧
    decode 0xE1C12514#32 = .ok (.bicShiftReg .al false 1#4 2#4 5#4 .lsl 4#4) ∧
    decode 0x21F02574#32 = .ok (.mvnShiftReg .cs true 2#4 5#4 .ror 4#4) := by
  decide

/-- The rows of format `psr_transfer_mrs` of spec/opcode_table.json, one word each (R72). -/
theorem test_decode_psr_transfer_mrs :
    decode 0x314F2000#32 = .ok (.mrs .cc true 2#4) := by
  decide

/-- The rows of format `psr_transfer_msr_reg` of spec/opcode_table.json, one word each (R72). -/
theorem test_decode_psr_transfer_msr_reg :
    decode 0x4169F004#32 = .ok (.msrReg .mi true 9#4 4#4) := by
  decide

/-- The rows of format `psr_transfer_msr_imm` of spec/opcode_table.json, one word each (R72). -/
theorem test_decode_psr_transfer_msr_imm :
    decode 0x5369F3A5#32 = .ok (.msrImm .pl true 9#4 3#4 0xA5#8) := by
  decide

/-- The rows of format `multiply` of spec/opcode_table.json, one word each (R72). -/
theorem test_decode_multiply :
    decode 0x60120594#32 = .ok (.mul .vs true 2#4 5#4 4#4) ∧
    decode 0x70221594#32 = .ok (.mla .vc false 2#4 1#4 5#4 4#4) := by
  decide

/-- The rows of format `multiply_long` of spec/opcode_table.json, one word each (R72). -/
theorem test_decode_multiply_long :
    decode 0x80967594#32 = .ok (.umull .hi true 6#4 7#4 5#4 4#4) ∧
    decode 0x90A67594#32 = .ok (.umlal .ls false 6#4 7#4 5#4 4#4) ∧
    decode 0xA0D67594#32 = .ok (.smull .ge true 6#4 7#4 5#4 4#4) ∧
    decode 0xB0E67594#32 = .ok (.smlal .lt false 6#4 7#4 5#4 4#4) := by
  decide

/-- The rows of format `single_data_swap` of spec/opcode_table.json, one word each (R72). -/
theorem test_decode_single_data_swap :
    decode 0xC1012094#32 = .ok (.swp .gt 1#4 2#4 4#4) ∧
    decode 0xD1412094#32 = .ok (.swpb .le 1#4 2#4 4#4) := by
  decide

/-- The rows of format `branch_and_exchange` of spec/opcode_table.json, one word each (R72). -/
theorem test_decode_branch_and_exchange :
    decode 0xE12FFF11#32 = .ok (.bx .al 1#4) := by
  decide

/-- The rows of format `halfword_transfer_register_offset` of spec/opcode_table.json, one word each (R72). -/
theorem test_decode_halfword_transfer_register_offset :
    decode 0x013120B4#32 = .ok (.ldrhReg .eq true false true 1#4 2#4 4#4) ∧
    decode 0x212120B4#32 = .ok (.strhReg .cs true false true 1#4 2#4 4#4) ∧
    decode 0x413120D4#32 = .ok (.ldrsbReg .mi true false true 1#4 2#4 4#4) ∧
    decode 0x613120F4#32 = .ok (.ldrshReg .vs true false true 1#4 2#4 4#4) := by
  decide

/-- The rows of format `halfword_transfer_immediate_offset` of spec/opcode_table.json, one word each (R72). -/
theorem test_decode_halfword_transfer_immediate_offset :
    decode 0x11712CB3#32 = .ok (.ldrhImm .ne true false true 1#4 2#4 0xC3#8) ∧
    decode 0x31612CB3#32 = .ok (.strhImm .cc true false true 1#4 2#4 0xC3#8) ∧
    decode 0x51712CD3#32 = .ok (.ldrsbImm .pl true false true 1#4 2#4 0xC3#8) ∧
    decode 0x71712CF3#32 = .ok (.ldrshImm .vc true false true 1#4 2#4 0xC3#8) := by
  decide

/-- The rows of format `single_data_transfer_immediate_offset` of spec/opcode_table.json, one word each (R72). -/
theorem test_decode_single_data_transfer_immediate_offset :
    decode 0x853129A5#32 = .ok (.ldrImm .hi true false true 1#4 2#4 0x9A5#12) ∧
    decode 0xA52129A5#32 = .ok (.strImm .ge true false true 1#4 2#4 0x9A5#12) ∧
    decode 0xC57129A5#32 = .ok (.ldrbImm .gt true false true 1#4 2#4 0x9A5#12) ∧
    decode 0xE56129A5#32 = .ok (.strbImm .al true false true 1#4 2#4 0x9A5#12) := by
  decide

/-- The rows of format `single_data_transfer_register_offset` of spec/opcode_table.json, one word each (R72). -/
theorem test_decode_single_data_transfer_register_offset :
    decode 0x973128A4#32 = .ok (.ldrReg .ls true false true 1#4 2#4 17#5 .lsr 4#4) ∧
    decode 0xB72128E4#32 = .ok (.strReg .lt true false true 1#4 2#4 17#5 .ror 4#4) ∧
    decode 0xD77128A4#32 = .ok (.ldrbReg .le true false true 1#4 2#4 17#5 .lsr 4#4) ∧
    decode 0x076128E4#32 = .ok (.strbReg .eq true false true 1#4 2#4 17#5 .ror 4#4) := by
  decide

/-- The rows of format `block_data_transfer` of spec/opcode_table.json, one word each (R72). -/
theorem test_decode_block_data_transfer :
    decode 0x18B180A6#32 = .ok (.ldmia .ne false true 1#4 0x80A6#16) ∧
    decode 0x29F180A6#32 = .ok (.ldmib .cs true true 1#4 0x80A6#16) ∧
    decode 0x383180A6#32 = .ok (.ldmda .cc false true 1#4 0x80A6#16) ∧
    decode 0x497180A6#32 = .ok (.ldmdb .mi true true 1#4 0x80A6#16) ∧
    decode 0x58A180A6#32 = .ok (.stmia .pl false true 1#4 0x80A6#16) ∧
    decode 0x69E180A6#32 = .ok (.stmib .vs true true 1#4 0x80A6#16) ∧
    decode 0x782180A6#32 = .ok (.stmda .vc false true 1#4 0x80A6#16) ∧
    decode 0x896180A6#32 = .ok (.stmdb .hi true true 1#4 0x80A6#16) := by
  decide

/-- The rows of format `branch` of spec/opcode_table.json, one word each (R72). -/
theorem test_decode_branch :
    decode 0x9A812345#32 = .ok (.b .ls 0x812345#24) ∧
    decode 0xAB812345#32 = .ok (.bl .ge 0x812345#24) := by
  decide

/-- The rows of format `coprocessor_data_transfer` of spec/opcode_table.json, one word each (R72). -/
theorem test_decode_coprocessor_data_transfer :
    decode 0xBD718A5A#32 = .ok (.ldc .lt true false true true 1#4 8#4 10#4 0x5A#8) ∧
    decode 0xCD618A5A#32 = .ok (.stc .gt true false true true 1#4 8#4 10#4 0x5A#8) := by
  decide

/-- The rows of format `coprocessor_data_operation` of spec/opcode_table.json, one word each (R72). -/
theorem test_decode_coprocessor_data_operation :
    decode 0xDE5B8ACC#32 = .ok (.cdp .le 5#4 11#4 8#4 10#4 6#3 12#4) := by
  decide

/-- The rows of format `coprocessor_register_transfer` of spec/opcode_table.json, one word each (R72). -/
theorem test_decode_coprocessor_register_transfer :
    decode 0xEEBB2ADC#32 = .ok (.mrc .al 5#3 11#4 2#4 10#4 6#3 12#4) ∧
    decode 0x0EAB2ADC#32 = .ok (.mcr .eq 5#3 11#4 2#4 10#4 6#3 12#4) := by
  decide

/-- The rows of format `software_interrupt` of spec/opcode_table.json, one word each (R72). -/
theorem test_decode_software_interrupt :
    decode 0x1F9ABCDE#32 = .ok (.swi .ne 0x9ABCDE#24) := by
  decide

/-- The rows of format `undefined` of spec/opcode_table.json, one word each (R72). -/
theorem test_decode_undefined :
    decode 0x271E015D#32 = .ok (.undefined .cs 0x8F00A#20 13#4) := by
  decide
/-- A word of each family, its fields written out as the formats of R72 lay them: the condition first, the lowest bits
last. -/
theorem test_decode_by_fields :
    decode (0b1110#4 ++ 0b001#3 ++ 0b0100#4 ++ 1#1 ++ 2#4 ++ 3#4 ++ 4#4 ++ 0xFF#8) =
      .ok (.addImm .al true 2#4 3#4 4#4 0xFF#8) ∧
    decode (0b0000#4 ++ 0b000#3 ++ 0b1101#4 ++ 0#1 ++ 0#4 ++ 3#4 ++ 31#5 ++ 0b10#2 ++ 0#1 ++ 5#4) =
      .ok (.movShiftImm .eq false 3#4 31#5 .asr 5#4) ∧
    decode (0b0001#4 ++ 0b000#3 ++ 0b1010#4 ++ 1#1 ++ 2#4 ++ 0#4 ++ 6#4 ++ 0#1 ++ 0b11#2 ++ 1#1 ++ 5#4) =
      .ok (.cmpShiftReg .ne 2#4 6#4 .ror 5#4) ∧
    decode (0b1110#4 ++ 0b00010#5 ++ 1#1 ++ 0b001111#6 ++ 3#4 ++ 0#12) = .ok (.mrs .al true 3#4) ∧
    decode (0b1110#4 ++ 0b00010#5 ++ 0#1 ++ 0b10#2 ++ 0b1001#4 ++ 0b111100000000#12 ++ 3#4) =
      .ok (.msrReg .al false 0b1001#4 3#4) ∧
    decode (0b1110#4 ++ 0b0000001#7 ++ 0#1 ++ 1#4 ++ 2#4 ++ 3#4 ++ 0b1001#4 ++ 4#4) =
      .ok (.mla .al false 1#4 2#4 3#4 4#4) ∧
    decode (0b1110#4 ++ 0b0000110#7 ++ 1#1 ++ 1#4 ++ 2#4 ++ 3#4 ++ 0b1001#4 ++ 4#4) =
      .ok (.smull .al true 1#4 2#4 3#4 4#4) ∧
    decode (0b1110#4 ++ 0b00010#5 ++ 1#1 ++ 0b00#2 ++ 1#4 ++ 2#4 ++ 0#4 ++ 0b1001#4 ++ 3#4) =
      .ok (.swpb .al 1#4 2#4 3#4) ∧
    decode (0b1110#4 ++ 0b0001#4 ++ 0b0010#4 ++ 0xFFF#12 ++ 0b0001#4 ++ 14#4) = .ok (.bx .al 14#4) ∧
    decode (0b1110#4 ++ 0b000#3 ++ 1#1 ++ 0#1 ++ 0#1 ++ 1#1 ++ 1#1 ++ 1#4 ++ 2#4 ++ 0#4 ++ 0b1011#4 ++ 3#4) =
      .ok (.ldrhReg .al true false true 1#4 2#4 3#4) ∧
    decode (0b1110#4 ++ 0b000#3 ++ 0#1 ++ 1#1 ++ 1#1 ++ 0#1 ++ 1#1 ++ 1#4 ++ 2#4 ++ 0xA#4 ++ 0b1101#4 ++ 0x5#4) =
      .ok (.ldrsbImm .al false true false 1#4 2#4 0xA5#8) ∧
    decode (0b1110#4 ++ 0b010#3 ++ 1#1 ++ 0#1 ++ 1#1 ++ 1#1 ++ 0#1 ++ 1#4 ++ 2#4 ++ 0xABC#12) =
      .ok (.strbImm .al true false true 1#4 2#4 0xABC#12) ∧
    decode (0b1110#4 ++ 0b011#3 ++ 0#1 ++ 1#1 ++ 0#1 ++ 0#1 ++ 1#1 ++ 1#4 ++ 2#4 ++ 3#5 ++ 0b01#2 ++ 0#1 ++ 4#4) =
      .ok (.ldrReg .al false true false 1#4 2#4 3#5 .lsr 4#4) ∧
    decode (0b1110#4 ++ 0b100#3 ++ 1#1 ++ 0#1 ++ 1#1 ++ 0#1 ++ 1#1 ++ 13#4 ++ 0x80F0#16) =
      .ok (.ldmdb .al true false 13#4 0x80F0#16) ∧
    decode (0b1011#4 ++ 0b101#3 ++ 1#1 ++ 0x800001#24) = .ok (.bl .lt 0x800001#24) ∧
    decode (0b1110#4 ++ 0b110#3 ++ 1#1 ++ 0#1 ++ 1#1 ++ 0#1 ++ 0#1 ++ 1#4 ++ 2#4 ++ 3#4 ++ 4#8) =
      .ok (.stc .al true false true false 1#4 2#4 3#4 4#8) ∧
    decode (0b1110#4 ++ 0b1110#4 ++ 9#4 ++ 1#4 ++ 2#4 ++ 3#4 ++ 5#3 ++ 0#1 ++ 4#4) =
      .ok (.cdp .al 9#4 1#4 2#4 3#4 5#3 4#4) ∧
    decode (0b1110#4 ++ 0b1110#4 ++ 6#3 ++ 1#1 ++ 1#4 ++ 2#4 ++ 3#4 ++ 5#3 ++ 1#1 ++ 4#4) =
      .ok (.mrc .al 6#3 1#4 2#4 3#4 5#3 4#4) ∧
    decode (0b1110#4 ++ 0b1111#4 ++ 0x123456#24) = .ok (.swi .al 0x123456#24) ∧
    decode (0b1110#4 ++ 0b011#3 ++ 0x12345#20 ++ 1#1 ++ 6#4) = .ok (.undefined .al 0x12345#20 6#4) := by
  decide

/-- Words of no row, and the condition 1111 (R76, R90; 95_test_vectors.md 2.1 and 2.10). -/
theorem test_decode_refuses :
    decode 0xF1A00001#32 = .neverCondition ∧ decode 0xE1C100D0#32 = .reserved .al ∧
    decode 0xE1A10002#32 = .reserved .al ∧ decode 0x01500000#32 = .ok (.cmpShiftImm .eq 0#4 0#5 .lsl 0#4) ∧
    decode 0xE1501000#32 = .reserved .al := by
  decide

/-! ## One instruction each: conditions, shifter, data processing -/

/-- 2.1: the conditions that pass for four values of the flags, LS as 90_conflicts.md C2 has it. -/
theorem test_conditions :
    [Cond.eq, .ne, .cs, .cc, .mi, .pl, .vs, .vc, .hi, .ls, .ge, .lt, .gt, .le, .al].map
      (fun c => (condPassed c 0x00000010, condPassed c 0x60000010, condPassed c 0x90000010, condPassed c 0x20000010)) =
    [(false, true, false, false), (true, false, true, true), (false, true, false, true), (true, false, true, false),
     (false, false, true, false), (true, true, false, true), (false, false, true, false), (true, true, false, true),
     (false, false, false, true), (true, true, true, false), (true, true, true, true), (false, false, false, false),
     (true, false, true, true), (false, true, false, false), (true, true, true, true)] := by
  decide

/-- 2.2: shift by immediate. -/
theorem test_shifter_immediate :
    shiftByImm .lsl 0 0x80000001 true = ⟨0x80000001, true⟩ ∧ shiftByImm .lsl 31 3 false = ⟨0x80000000, true⟩ ∧
    shiftByImm .lsr 1 3 false = ⟨1, true⟩ ∧ shiftByImm .lsr 0 0x80000000 false = ⟨0, true⟩ ∧
    shiftByImm .asr 0 0x80000000 false = ⟨0xFFFFFFFF, true⟩ ∧ shiftByImm .asr 0 0x7FFFFFFF true = ⟨0, false⟩ ∧
    shiftByImm .ror 8 0xFF false = ⟨0xFF000000, true⟩ ∧ shiftByImm .ror 0 1 true = ⟨0x80000000, true⟩ ∧
    shiftByImm .ror 0 0x80000000 false = ⟨0x40000000, false⟩ := by
  decide

/-- 2.2: shift by register. -/
theorem test_shifter_register :
    shiftByReg .lsl 0 0x80000001 true = ⟨0x80000001, true⟩ ∧ shiftByReg .lsl 32 0x80000001 false = ⟨0, true⟩ ∧
    shiftByReg .lsl 33 0x80000001 true = ⟨0, false⟩ ∧ shiftByReg .lsr 32 0x80000001 false = ⟨0, true⟩ ∧
    shiftByReg .lsr 33 0x80000001 true = ⟨0, false⟩ ∧ shiftByReg .asr 4 0x80000008 false = ⟨0xF8000000, true⟩ ∧
    shiftByReg .asr 40 0x80000001 false = ⟨0xFFFFFFFF, true⟩ ∧ shiftByReg .ror 32 0x80000001 false = ⟨0x80000001, true⟩ ∧
    shiftByReg .ror 36 0x80000001 false = ⟨0x18000000, false⟩ := by
  decide

/-- E20. -/
theorem test_and_imm :
    (run 0xE20000FF#32 (st 0x00000010 [(.r0, 0x12345678)] [])).map (fun u => u.phys .r0) =
      some 0x78#32 := by
  decide

/-- 2.3. -/
theorem test_ands_keeps_v :
    (run 0xE0110002#32 (st 0xB0000010 [(.r1, 0xf0f0f0f0), (.r2, 0xf0f0f0f)] [])).map (fun u => (u.phys .r0, nzcv u)) =
      some (0x0#32, 0b0111#4) := by
  decide

/-- E21. -/
theorem test_andcss_by_register :
    (run 0x20110352#32 (st 0x20000010 [(.r1, 0xff), (.r2, 0x80000000), (.r3, 0x1c)] [])).map
      (fun u => (u.phys .r0, nzcv u)) =
      some (0xF8#32, 0b0000#4) := by
  decide

/-- E21. -/
theorem test_andcss_not_passed :
    (run 0x20110352#32 (st 0x00000010 [(.r0, 0x7), (.r1, 0xff)] [])).map (fun u => (u.phys .r0, u.pc)) =
      some (0x7#32, 0x8004#32) := by
  decide

/-- E22. -/
theorem test_eors_same :
    (run 0xE0300000#32 (st 0xB0000010 [(.r0, 0x5a)] [])).map (fun u => (u.phys .r0, nzcv u)) =
      some (0x0#32, 0b0111#4) := by
  decide

/-- E6. -/
theorem test_subs_by_register :
    (run 0xE0554237#32 (st 0x00000010 [(.r5, 0x64), (.r7, 0x40), (.r2, 0x3)] [])).map (fun u => (u.phys .r4, nzcv u)) =
      some (0x5C#32, 0b0010#4) := by
  decide

/-- 2.3. -/
theorem test_subs_borrow :
    (run 0xE0510002#32 (st 0x00000010 [(.r1, 0x0), (.r2, 0x1)] [])).map (fun u => (u.phys .r0, nzcv u)) =
      some (0xFFFFFFFF#32, 0b1000#4) := by
  decide

/-- 2.3. -/
theorem test_subs_overflow :
    (run 0xE0510002#32 (st 0x00000010 [(.r1, 0x80000000), (.r2, 0x1)] [])).map (fun u => (u.phys .r0, nzcv u)) =
      some (0x7FFFFFFF#32, 0b0011#4) := by
  decide

/-- 2.3. -/
theorem test_rsbs :
    (run 0xE0710002#32 (st 0x00000010 [(.r1, 0x1), (.r2, 0x0)] [])).map (fun u => (u.phys .r0, nzcv u)) =
      some (0xFFFFFFFF#32, 0b1000#4) := by
  decide

/-- 2.3. -/
theorem test_rsb_imm :
    (run 0xE2610000#32 (st 0x60000010 [(.r1, 0x5)] [])).map (fun u => (u.phys .r0, nzcv u)) =
      some (0xFFFFFFFB#32, 0b0110#4) := by
  decide

/-- E16. -/
theorem test_add_imm_wraps :
    (run 0xE2800001#32 (st 0x00000010 [(.r0, 0xffffffff)] [])).map (fun u => (u.phys .r0, nzcv u)) =
      some (0x0#32, 0b0000#4) := by
  decide

/-- 2.3. -/
theorem test_add_pc :
    (run 0xE28F0004#32 (st 0x00000010 [] [])).map (fun u => u.phys .r0) =
      some 0x800C#32 := by
  decide

/-- 2.3. -/
theorem test_adds_overflow :
    (run 0xE0910002#32 (st 0x00000010 [(.r1, 0x80000000), (.r2, 0x80000000)] [])).map (fun u => (u.phys .r0, nzcv u)) =
      some (0x0#32, 0b0111#4) := by
  decide

/-- E18. -/
theorem test_adds_carry_from_adder :
    (run 0xE0910101#32 (st 0x00000010 [(.r1, 0x40000000)] [])).map (fun u => (u.phys .r0, nzcv u)) =
      some (0x40000000#32, 0b0000#4) := by
  decide

/-- 2.3. -/
theorem test_add_pc_by_register :
    (run 0xE08F0211#32 (st 0x00000010 [(.r1, 0x1), (.r2, 0x2)] [])).map (fun u => u.phys .r0) =
      some 0x8010#32 := by
  decide

/-- 2.3. -/
theorem test_adcs :
    (run 0xE0B31005#32 (st 0x20000010 [(.r3, 0xffffffff), (.r5, 0x0)] [])).map (fun u => (u.phys .r1, nzcv u)) =
      some (0x0#32, 0b0110#4) := by
  decide

/-- 2.3. -/
theorem test_sbcs_no_carry :
    (run 0xE0D31005#32 (st 0x00000010 [(.r3, 0x0), (.r5, 0x0)] [])).map (fun u => (u.phys .r1, nzcv u)) =
      some (0xFFFFFFFF#32, 0b1000#4) := by
  decide

/-- 2.3. -/
theorem test_sbcs_carry :
    (run 0xE0D31005#32 (st 0x20000010 [(.r3, 0x5), (.r5, 0x3)] [])).map (fun u => (u.phys .r1, nzcv u)) =
      some (0x2#32, 0b0010#4) := by
  decide

/-- 2.3. -/
theorem test_rscs_imm :
    (run 0xE2F31000#32 (st 0x00000010 [(.r3, 0x1)] [])).map (fun u => (u.phys .r1, nzcv u)) =
      some (0xFFFFFFFE#32, 0b1000#4) := by
  decide

/-- 2.3. -/
theorem test_tst_imm :
    (run 0xE3100001#32 (st 0x30000010 [(.r0, 0x6)] [])).map (fun u => (u.phys .r0, nzcv u)) =
      some (0x6#32, 0b0111#4) := by
  decide

/-- 2.3. -/
theorem test_teq :
    (run 0xE1300001#32 (st 0x40000010 [(.r0, 0x80000000), (.r1, 0x0)] [])).map (fun u => (u.phys .r0, nzcv u)) =
      some (0x80000000#32, 0b1000#4) := by
  decide

/-- 2.3. -/
theorem test_cmp_imm :
    (run 0xE3520017#32 (st 0x00000010 [(.r2, 0x16)] [])).map (fun u => (u.phys .r2, nzcv u)) =
      some (0x16#32, 0b1000#4) := by
  decide

/-- 2.3. -/
theorem test_cmn :
    (run 0xE1710002#32 (st 0x00000010 [(.r1, 0x5), (.r2, 0xfffffffb)] [])).map (fun u => (u.phys .r1, nzcv u)) =
      some (0x5#32, 0b0110#4) := by
  decide

/-- E23. -/
theorem test_orr_imm :
    (run 0xE3800CFF#32 (st 0x00000010 [(.r0, 0xff)] [])).map (fun u => u.phys .r0) =
      some 0xFFFF#32 := by
  decide

/-- 2.3. -/
theorem test_orrs :
    (run 0xE1910002#32 (st 0x50000010 [(.r1, 0x80000000), (.r2, 0x1)] [])).map (fun u => (u.phys .r0, nzcv u)) =
      some (0x80000001#32, 0b1001#4) := by
  decide

/-- E9. -/
theorem test_mov_imm_rotated :
    (run 0xE3A003FF#32 (st 0xF0000010 [] [])).map (fun u => (u.phys .r0, nzcv u)) =
      some (0xFC000003#32, 0b1111#4) := by
  decide

/-- 2.2. -/
theorem test_movs_imm_carry :
    (run 0xE3B00102#32 (st 0x00000010 [] [])).map (fun u => (u.phys .r0, nzcv u)) =
      some (0x80000000#32, 0b1010#4) := by
  decide

/-- 2.2. -/
theorem test_movs_rrx :
    (run 0xE1B00061#32 (st 0x20000010 [(.r1, 0x1)] [])).map (fun u => (u.phys .r0, nzcv u)) =
      some (0x80000000#32, 0b1010#4) := by
  decide

/-- 2.3. -/
theorem test_mov_pc :
    (run 0xE1A0000F#32 (st 0x00000010 [] [])).map (fun u => (u.phys .r0, u.pc)) =
      some (0x8008#32, 0x8004#32) := by
  decide

/-- E39. -/
theorem test_mov_by_register_low_byte :
    (run 0xE1A00211#32 (st 0x00000010 [(.r1, 0x1), (.r2, 0x104)] [])).map (fun u => u.phys .r0) =
      some 0x10#32 := by
  decide

/-- 2.3. -/
theorem test_bic_imm :
    (run 0xE3C0000F#32 (st 0x00000010 [(.r0, 0x1234)] [])).map (fun u => u.phys .r0) =
      some 0x1230#32 := by
  decide

/-- 2.3. -/
theorem test_bics :
    (run 0xE1D10002#32 (st 0xA0000010 [(.r1, 0xffffffff), (.r2, 0xffffffff)] [])).map (fun u => (u.phys .r0, nzcv u)) =
      some (0x0#32, 0b0110#4) := by
  decide

/-- E15. -/
theorem test_mvn_imm :
    (run 0xE3E00000#32 (st 0x00000010 [] [])).map (fun u => u.phys .r0) =
      some 0xFFFFFFFF#32 := by
  decide

/-- 2.3. -/
theorem test_mvns :
    (run 0xE1F00001#32 (st 0x60000010 [(.r1, 0x0)] [])).map (fun u => (u.phys .r0, nzcv u)) =
      some (0xFFFFFFFF#32, 0b1010#4) := by
  decide

/-- E1. -/
theorem test_subs_pc_returns :
    (run 0xE25EF004#32 ((st 0x00000092 [(.r14Irq, 0x8014)] []).setSpsr .irq 0x60000010)).map
      (fun u => (u.pc, u.cpsr)) =
      some (0x8010#32, 0x60000010#32) := by
  decide

/-! ## Branches, PSR transfer -/

/-- 2.4. -/
theorem test_b_to_itself :
    (run 0xEAFFFFFE#32 (st 0x00000010 [] [])).map (fun u => u.pc) =
      some 0x8000#32 := by
  decide

/-- 2.4. -/
theorem test_b_backward_most :
    (run 0xEA800000#32 (st 0x00000010 [] [])).map (fun u => u.pc) =
      some 0xFE008008#32 := by
  decide

/-- 2.4. -/
theorem test_bl :
    (run 0xEB00003E#32 (st 0x00000010 [] [])).map (fun u => (u.pc, u.phys .r14)) =
      some (0x8100#32, 0x8004#32) := by
  decide

/-- 2.4. -/
theorem test_bx :
    (run 0xE12FFF1E#32 (st 0x00000010 [(.r14, 0x8004)] [])).map (fun u => (u.pc, u.cpsr)) =
      some (0x8004#32, 0x10#32) := by
  decide

/-- 2.5. -/
theorem test_mrs_cpsr :
    (run 0xE10F0000#32 (st 0x600000D3 [] [])).map (fun u => u.phys .r0) =
      some 0x600000D3#32 := by
  decide

/-- 2.5. -/
theorem test_mrs_spsr :
    (run 0xE14F0000#32 ((st 0x00000092 [] []).setSpsr .irq 0x80000010)).map (fun u => u.phys .r0) =
      some 0x80000010#32 := by
  decide

/-- 2.5. -/
theorem test_msr_control :
    (run 0xE121F000#32 (st 0x600000D3 [(.r0, 0x53)] [])).map (fun u => u.cpsr) =
      some 0x60000053#32 := by
  decide

/-- 2.5. -/
theorem test_msr_user_ignored :
    (run 0xE121F000#32 (st 0x00000010 [(.r0, 0xd3)] [])).map (fun u => (u.cpsr, u.pc)) =
      some (0x10#32, 0x8004#32) := by
  decide

/-- 2.5. -/
theorem test_msr_imm_flags :
    (run 0xE328F20F#32 (st 0x00000010 [] [])).map (fun u => u.cpsr) =
      some 0xF0000010#32 := by
  decide

/-! ## Transfers -/

/-- 2.6. -/
theorem test_ldr_rotates :
    (run 0xE5910000#32 (st 0x00000010 [(.r1, 0x1001)] [(0x1000, 0x11223344)])).map (fun u => u.phys .r0) =
      some 0x44112233#32 := by
  decide

/-- 2.6. -/
theorem test_ldr_reg_down :
    (run 0xE7110002#32 (st 0x00000010 [(.r1, 0x1008), (.r2, 0x4)]
        [(0x1000, 0x11223344), (0x1004, 0x55667788)])).map
      (fun u => (u.phys .r0, u.phys .r1)) =
      some (0x55667788#32, 0x1008#32) := by
  decide

/-- E32. -/
theorem test_ldr_reg_post :
    (run 0xE6910002#32 (st 0x00000010 [(.r1, 0x1000), (.r2, 0x10)] [(0x1000, 0x11223344)])).map
      (fun u => (u.phys .r0, u.phys .r1)) =
      some (0x11223344#32, 0x1010#32) := by
  decide

/-- 2.6. -/
theorem test_str_imm_writeback :
    (run 0xE5202004#32 (st 0x00000010 [(.r0, 0x3f0), (.r2, 0x7)] [])).map
      (fun u => (u.mem.word false 0x3EC, u.phys .r0)) =
      some (0x7#32, 0x3EC#32) := by
  decide

/-- 2.6. -/
theorem test_str_pc :
    (run 0xE581F000#32 (st 0x00000010 [(.r1, 0x2000)] [])).map (fun u => u.mem.word false 0x2000) =
      some 0x800C#32 := by
  decide

/-- E29. -/
theorem test_str_reg :
    (run 0xE7810002#32 (st 0x00000010 [(.r0, 0xa5a5a5a5), (.r1, 0x2000), (.r2, 0x8)] [])).map
      (fun u => (u.mem.word false 0x2008, u.phys .r1)) =
      some (0xA5A5A5A5#32, 0x2000#32) := by
  decide

/-- 2.6. -/
theorem test_ldrb_imm :
    (run 0xE5D10003#32 (st 0x00000010 [(.r1, 0x1000)] [(0x1000, 0x11223344)])).map (fun u => u.phys .r0) =
      some 0x11#32 := by
  decide

/-- R153, R156. -/
theorem test_ldrb_reg :
    (run 0xE7D10002#32 (st 0x00000010 [(.r1, 0x1000), (.r2, 0x1)] [(0x1000, 0x11223344)])).map (fun u => u.phys .r0) =
      some 0x33#32 := by
  decide

/-- 2.6. -/
theorem test_strb_imm :
    (run 0xE5C10001#32 (st 0x00000010 [(.r0, 0x12345678), (.r1, 0x1000)] [(0x1000, 0x11223344)])).map
      (fun u => u.mem.word false 0x1000) =
      some 0x11227844#32 := by
  decide

/-- R153, R157. -/
theorem test_strb_reg :
    (run 0xE7410002#32 (st 0x00000010 [(.r0, 0x12345678), (.r1, 0x1003), (.r2, 0x3)] [(0x1000, 0x11223344)])).map
      (fun u => u.mem.word false 0x1000) =
      some 0x11223378#32 := by
  decide

/-- 2.10. -/
theorem test_ldrh_imm :
    (run 0xE1D101B2#32 (st 0x00000010 [(.r1, 0x1000)] [(0x1000, 0x80019234), (0x1010, 0x9234ffff)])).map
      (fun u => u.phys .r0) =
      some 0x9234#32 := by
  decide

/-- R212, R213. -/
theorem test_ldrh_reg :
    (run 0xE19100B2#32 (st 0x00000010 [(.r1, 0x1000), (.r2, 0x2)] [(0x1000, 0x80019234)])).map (fun u => u.phys .r0) =
      some 0x8001#32 := by
  decide

/-- 2.10. -/
theorem test_ldrsh_imm_post :
    (run 0xE0D100F2#32 (st 0x00000010 [(.r1, 0x1002)] [(0x1000, 0x80019234)])).map
      (fun u => (u.phys .r0, u.phys .r1)) =
      some (0xFFFF8001#32, 0x1004#32) := by
  decide

/-- 2.10. -/
theorem test_ldrsh_reg :
    (run 0xE19100F2#32 (st 0x00000010 [(.r1, 0x1000), (.r2, 0x0)] [(0x1000, 0x80019234)])).map (fun u => u.phys .r0) =
      some 0xFFFF9234#32 := by
  decide

/-- 2.10. -/
theorem test_ldrsb_imm :
    (run 0xE15100D1#32 (st 0x00000010 [(.r1, 0x1002)] [(0x1000, 0x80019234)])).map (fun u => u.phys .r0) =
      some 0xFFFFFF92#32 := by
  decide

/-- 2.10. -/
theorem test_ldrsb_reg :
    (run 0xE19100D2#32 (st 0x00000010 [(.r1, 0x1000), (.r2, 0x3)] [(0x1000, 0x80019234)])).map (fun u => u.phys .r0) =
      some 0xFFFFFF80#32 := by
  decide

/-- 2.10. -/
theorem test_strh_imm :
    (run 0xE1C100B2#32 (st 0x00000010 [(.r0, 0x12345678), (.r1, 0x2000)] [(0x2000, 0xaaaaaaaa)])).map
      (fun u => u.mem.word false 0x2000) =
      some 0x5678AAAA#32 := by
  decide

/-- 2.10. -/
theorem test_strh_reg_writeback :
    (run 0xE12100B2#32 (st 0x00000010 [(.r0, 0xbeef), (.r1, 0x2004), (.r2, 0x4)] [(0x2000, 0xaaaaaaaa)])).map
      (fun u => (u.mem.word false 0x2000, u.phys .r1)) =
      some (0xAAAABEEF#32, 0x2000#32) := by
  decide

/-- 2.7. -/
theorem test_stmia :
    (run 0xE8A000A2#32 (st 0x00000010 [(.r0, 0x1000), (.r1, 0x11111111), (.r5, 0x55555555), (.r7, 0x77777777)]
        [])).map
      (fun u => (u.mem.word false 0x1000, u.mem.word false 0x1004, u.mem.word false 0x1008, u.phys .r0)) =
      some (0x11111111#32, 0x55555555#32, 0x77777777#32, 0x100C#32) := by
  decide

/-- 2.7. -/
theorem test_stmib :
    (run 0xE98000A2#32 (st 0x00000010 [(.r0, 0x1000), (.r1, 0x11111111), (.r5, 0x55555555), (.r7, 0x77777777)]
        [])).map
      (fun u => (u.mem.word false 0x1004, u.mem.word false 0x1008, u.mem.word false 0x100C, u.phys .r0)) =
      some (0x11111111#32, 0x55555555#32, 0x77777777#32, 0x1000#32) := by
  decide

/-- 2.7. -/
theorem test_stmda :
    (run 0xE82000A2#32 (st 0x00000010 [(.r0, 0x1000), (.r1, 0x11111111), (.r5, 0x55555555), (.r7, 0x77777777)]
        [])).map
      (fun u => (u.mem.word false 0xFF8, u.mem.word false 0xFFC, u.mem.word false 0x1000, u.phys .r0)) =
      some (0x11111111#32, 0x55555555#32, 0x77777777#32, 0xFF4#32) := by
  decide

/-- 2.7. -/
theorem test_stmdb :
    (run 0xE90000A2#32 (st 0x00000010 [(.r0, 0x1000), (.r1, 0x11111111), (.r5, 0x55555555), (.r7, 0x77777777)]
        [])).map
      (fun u => (u.mem.word false 0xFF4, u.mem.word false 0xFF8, u.mem.word false 0xFFC, u.phys .r0)) =
      some (0x11111111#32, 0x55555555#32, 0x77777777#32, 0x1000#32) := by
  decide

/-- 2.7. -/
theorem test_ldmia :
    (run 0xE8B0000E#32 (st 0x00000010 [(.r0, 0x1000)]
        [(0x1000, 0xa0), (0x1004, 0xa1), (0x1008, 0xa2), (0x100c, 0xa3)])).map
      (fun u => (u.phys .r1, u.phys .r2, u.phys .r3, u.phys .r0)) =
      some (0xA0#32, 0xA1#32, 0xA2#32, 0x100C#32) := by
  decide

/-- 2.7. -/
theorem test_ldmib :
    (run 0xE990000E#32 (st 0x00000010 [(.r0, 0x1000)]
        [(0x1000, 0xa0), (0x1004, 0xa1), (0x1008, 0xa2), (0x100c, 0xa3)])).map
      (fun u => (u.phys .r1, u.phys .r2, u.phys .r3, u.phys .r0)) =
      some (0xA1#32, 0xA2#32, 0xA3#32, 0x1000#32) := by
  decide

/-- 2.7. -/
theorem test_ldmda :
    (run 0xE8100006#32 (st 0x00000010 [(.r0, 0x1000)] [(0xff8, 0x9e), (0xffc, 0x9f), (0x1000, 0xa0)])).map
      (fun u => (u.phys .r1, u.phys .r2)) =
      some (0x9F#32, 0xA0#32) := by
  decide

/-- 2.7. -/
theorem test_ldmdb :
    (run 0xE9300006#32 (st 0x00000010 [(.r0, 0x1000)] [(0xff8, 0x9e), (0xffc, 0x9f)])).map
      (fun u => (u.phys .r1, u.phys .r2, u.phys .r0)) =
      some (0x9E#32, 0x9F#32, 0xFF8#32) := by
  decide

/-- 2.7. -/
theorem test_ldmia_returns :
    (run 0xE8FD800F#32 ((st 0x00000092 [(.r13Irq, 0x3fec)]
        [(0x3fec, 0x1), (0x3ff0, 0x2), (0x3ff4, 0x3), (0x3ff8, 0x4), (0x3ffc, 0x8010)]).setSpsr .irq 0x60000010)).map
      (fun u => (u.phys .r0, u.phys .r3, u.phys .r13Irq, u.pc, u.cpsr)) =
      some (0x1#32, 0x4#32, 0x4000#32, 0x8010#32, 0x60000010#32) := by
  decide

/-! ## Multiply, swap -/

/-- 2.8. -/
theorem test_mul :
    (run 0xE0000291#32 (st 0x00000010 [(.r1, 0xffffffff), (.r2, 0xffffffff)] [])).map (fun u => (u.phys .r0, u.cpsr)) =
      some (0x1#32, 0x10#32) := by
  decide

/-- 2.8. -/
theorem test_muls_result :
    (run 0xE0100291#32 (st 0x00000010 [(.r1, 0xffffffff), (.r2, 0x2)] [])).map (fun u => (u.phys .r0, u.pc)) =
      some (0xFFFFFFFE#32, 0x8004#32) := by
  decide

/-- 2.8. -/
theorem test_mla :
    (run 0xE0203291#32 (st 0x00000010 [(.r1, 0x3), (.r2, 0x4), (.r3, 0x5)] [])).map (fun u => u.phys .r0) =
      some 0x11#32 := by
  decide

/-- 2.8. -/
theorem test_umull :
    (run 0xE0810392#32 (st 0x00000010 [(.r2, 0xffffffff), (.r3, 0xffffffff)] [])).map
      (fun u => (u.phys .r1, u.phys .r0)) =
      some (0xFFFFFFFE#32, 0x1#32) := by
  decide

/-- 2.8. -/
theorem test_smull :
    (run 0xE0C10392#32 (st 0x00000010 [(.r2, 0xfffffffe), (.r3, 0x3)] [])).map (fun u => (u.phys .r1, u.phys .r0)) =
      some (0xFFFFFFFF#32, 0xFFFFFFFA#32) := by
  decide

/-- 2.8. -/
theorem test_smull_most_negative :
    (run 0xE0C10392#32 (st 0x00000010 [(.r2, 0x80000000), (.r3, 0x80000000)] [])).map
      (fun u => (u.phys .r1, u.phys .r0)) =
      some (0x40000000#32, 0x0#32) := by
  decide

/-- 2.8. -/
theorem test_umlal :
    (run 0xE0A10392#32 (st 0x00000010 [(.r1, 0x0), (.r0, 0xffffffff), (.r2, 0x1), (.r3, 0x1)] [])).map
      (fun u => (u.phys .r1, u.phys .r0)) =
      some (0x1#32, 0x0#32) := by
  decide

/-- 2.8. -/
theorem test_smlal :
    (run 0xE0E10392#32 (st 0x00000010 [(.r1, 0x0), (.r0, 0x1), (.r2, 0xffffffff), (.r3, 0x1)] [])).map
      (fun u => (u.phys .r1, u.phys .r0)) =
      some (0x0#32, 0x0#32) := by
  decide

/-- 2.9. -/
theorem test_swp :
    (run 0xE1020091#32 (st 0x00000010 [(.r1, 0x1), (.r2, 0x3000)] [])).map
      (fun u => (u.phys .r0, u.mem.word false 0x3000)) =
      some (0x0#32, 0x1#32) := by
  decide

/-- 2.9. -/
theorem test_swp_same_register :
    (run 0xE1020090#32 (st 0x00000010 [(.r0, 0xaa), (.r2, 0x3000)] [(0x3000, 0xbb)])).map
      (fun u => (u.phys .r0, u.mem.word false 0x3000)) =
      some (0xBB#32, 0xAA#32) := by
  decide

/-- 2.9. -/
theorem test_swpb :
    (run 0xE1420091#32 (st 0x00000010 [(.r1, 0x1ff), (.r2, 0x3001)] [(0x3000, 0x11223344)])).map
      (fun u => (u.phys .r0, u.mem.word false 0x3000)) =
      some (0x33#32, 0x1122FF44#32) := by
  decide

/-! ## Instructions that trap, aborts -/

/-- 2.11. -/
theorem test_swi :
    (run 0xEF123456#32 (st 0x60000010 [] [])).map (fun u => (u.phys .r14Svc, u.spsrSvc, u.cpsr, u.pc)) =
      some (0x8004#32, 0x60000010#32, 0x60000093#32, 0x8#32) := by
  decide

/-- 2.11. -/
theorem test_swine_not_passed :
    (run 0x1F123456#32 (st 0x60000010 [] [])).map (fun u => (u.pc, u.cpsr)) =
      some (0x8004#32, 0x60000010#32) := by
  decide

/-- 2.11. -/
theorem test_undefined :
    (run 0xE7F000F0#32 (st 0x60000010 [] [])).map (fun u => (u.phys .r14Und, u.spsrUnd, u.cpsr, u.pc)) =
      some (0x8004#32, 0x60000010#32, 0x6000009B#32, 0x4#32) := by
  decide

/-- 2.11. -/
theorem test_mcr :
    (run 0xEE010F10#32 (st 0x60000010 [] [])).map (fun u => (u.phys .r14Und, u.spsrUnd, u.cpsr, u.pc)) =
      some (0x8004#32, 0x60000010#32, 0x6000009B#32, 0x4#32) := by
  decide

/-- R221. -/
theorem test_mrc :
    (run 0xEE110F10#32 (st 0x60000010 [] [])).map (fun u => (u.phys .r14Und, u.cpsr, u.pc)) =
      some (0x8004#32, 0x6000009B#32, 0x4#32) := by
  decide

/-- R221. -/
theorem test_cdp :
    (run 0xEE010F00#32 (st 0x60000010 [] [])).map (fun u => (u.phys .r14Und, u.cpsr, u.pc)) =
      some (0x8004#32, 0x6000009B#32, 0x4#32) := by
  decide

/-- R221. -/
theorem test_ldc :
    (run 0xED910F00#32 (st 0x60000010 [] [])).map (fun u => (u.phys .r14Und, u.cpsr, u.pc)) =
      some (0x8004#32, 0x6000009B#32, 0x4#32) := by
  decide

/-- R221. -/
theorem test_stc :
    (run 0xED810F00#32 (st 0x60000010 [] [])).map (fun u => (u.phys .r14Und, u.cpsr, u.pc)) =
      some (0x8004#32, 0x6000009B#32, 0x4#32) := by
  decide

/-- 2.6 and 2.11. -/
theorem test_ldr_data_abort :
    (run 0xE5910000#32 (aborting (st 0x00000010 [(.r1, 0x1000)] []) .read 0x1000 4)).map
      (fun u => (u.phys .r0, u.phys .r14Abt, u.spsrAbt, u.cpsr, u.pc)) =
      some (0x0#32, 0x8008#32, 0x10#32, 0x97#32, 0x10#32) := by
  decide

/-! ## Refusals -/

/-- 2.3 to 2.9: the refused vectors, each by its name. -/
theorem test_refusals :
    refusal 0xE1A0F00E#32 (st 0x10 [(.r14, 0x8126)] []) = some .misalignedPc ∧
    refusal 0xE25EF004#32 (st 0x10 [(.r14, 0x8124)] []) = some .noSpsr ∧
    refusal 0xE12FFF1E#32 (st 0x10 [(.r14, 0x8005)] []) = some .thumbState ∧
    refusal 0xE14F0000#32 (st 0x10 [] []) = some .noSpsr ∧
    refusal 0xE121F000#32 (st 0x13 [(.r0, 0xC0)] []) = some .illegalMode ∧
    refusal 0xE121F000#32 (st 0x13 [(.r0, 0xF3)] []) = some .thumbState ∧
    refusal 0xE5B11004#32 (st 0x10 [] []) = some .unpredictableOperands ∧
    refusal 0xE4B10004#32 (st 0x10 [] []) = some .userTransfer ∧
    refusal 0xE8B00003#32 (st 0x10 [(.r0, 0x1000)] []) = some .unpredictableOperands ∧
    refusal 0xE8900000#32 (st 0x10 [(.r0, 0x1000)] []) = some .unpredictableOperands ∧
    refusal 0xE8FD800F#32 (st 0x10 [(.r13, 0x3FEC)] [(0x3FFC, 0x8010)]) = some .noSpsr ∧
    refusal 0xE0000090#32 (st 0x10 [] []) = some .unpredictableOperands ∧
    refusal 0xE1D100B0#32 (st 0x10 [(.r1, 0x1001)] []) = some .misalignedHalf := by
  decide

/-- 2.6 and 2.9: a misaligned word under MISALIGNED_WORD = refuse. -/
theorem test_misaligned_refused :
    refusal 0xE5910000#32 (on (st 0x10 [(.r1, 0x1001)] []) fun p => { p with misaligned := .refuse }) =
      some .misalignedWord ∧
    refusal 0xE1020091#32 (on (st 0x10 [(.r2, 0x3002)] []) fun p => { p with misaligned := .refuse }) =
      some .misalignedWord := by
  decide

/-- R10, R61: Abort depends on the width: a word read at 0x1000 aborts and a byte read there does not. -/
theorem test_abort_by_width :
    (run 0xE5910000#32 (aborting (st 0x10 [(.r1, 0x1000)] []) .read 0x1000 4)).map (·.pc) = some 0x10#32 ∧
    (run 0xE5D10000#32 (aborting (st 0x10 [(.r1, 0x1000)] []) .read 0x1000 4)).map (·.pc) = some 0x8004#32 := by
  decide

/-- R36, R176: LDM with `^` and R15 in User mode is refused although its first word would abort. -/
theorem test_ldm_return_refused_first :
    refusal 0xE8FD800F#32 (aborting (st 0x10 [(.r13, 0x3FEC)] []) .read 0x3FEC 4) = some .noSpsr := by
  decide

/-- 2.6: BIGEND = 1. -/
theorem test_big_endian :
    (run 0xE5D10000#32 (on (st 0x10 [(.r1, 0x1000)] [(0x1000, 0x44332211)]) fun p => { p with bigEndian := true })).map
      (fun u => u.phys .r0) = some 0x11#32 := by
  decide

/-! ## Steps -/

/-- The state after a step. -/
def stepped (s : State) : Option State := match step s with | .next t => some t | _ => none

/-- E4: the first step from reset runs the word placed at 0. -/
theorem test_step_from_reset :
    (stepped (State.reset.withFetchWord 32 0xEA000006)).map (fun t => (t.pc, t.cpsr)) = some (0x20#32, 0xD3#32) := by
  decide

/-- 2.11: an IRQ before the instruction at 0x8000. -/
theorem test_step_irq :
    (stepped (lined (st 0x60000010 [] []) false false true)).map
      (fun t => (t.phys .r14Irq, t.spsrIrq, t.cpsr, t.pc)) =
    some (0x8004#32, 0x60000010#32, 0x60000092#32, 0x18#32) := by
  decide

/-- 2.11: both lines, FIQ first. -/
theorem test_step_fiq :
    (stepped (lined (st 0x60000010 [] []) false true true)).map
      (fun t => (t.phys .r14Fiq, t.spsrFiq, t.cpsr, t.pc)) =
    some (0x8004#32, 0x60000010#32, 0x600000D1#32, 0x1C#32) := by
  decide

/-- 2.11: the fetch aborts. -/
theorem test_step_prefetch_abort :
    (stepped (aborting (st 0x60000010 [] []) .fetch 0x8000 4)).map
      (fun t => (t.phys .r14Abt, t.spsrAbt, t.cpsr, t.pc)) =
    some (0x8004#32, 0x60000010#32, 0x60000097#32, 0xC#32) := by
  decide

/-- R288: STR r0, [r1] into the word after it. Memory has the word stored, the word to be run next is the one before. -/
theorem test_store_into_fetched_word :
    (stepped (st 0x10 [(.r0, 0xE3A00001), (.r1, 0x8004)] [(0x8000, 0xE5810000), (0x8004, 0xE3A02002)])).map
      (fun t => (t.mem.word false 0x8004, t.wordNow, t.pc)) = some (0xE3A00001#32, 0xE3A02002#32, 0x8004#32) := by
  decide

/-- `st` with words fetched ahead. -/
def ahead (s : State) (x : Word × Word) : State := { s with prefetched := some x }

/-- R288, R41 (b): the word fetched ahead is run (MOV r2, #2), whatever memory has at the pc, and the second is next. -/
theorem test_fetched_word_is_run :
    (stepped (ahead (st 0x10 [] [(0x8000, 0xE3A00001), (0x8008, 0x12345678)]) (0xE3A02002, 0xE3A03003))).map
      (fun t => (t.phys .r2, t.pc, t.prefetched)) = some (2#32, 0x8004#32, some (0xE3A03003#32, 0x12345678#32)) := by
  decide

/-- R28, R243: a branch and an exception taken at a boundary drop the words fetched ahead. -/
theorem test_transfer_drops_fetched :
    (stepped (ahead (st 0x10 [] []) (0xEA000006, 0))).map (fun t => (t.pc, t.prefetched)) = some (0x8020#32, none) ∧
    (stepped (lined (ahead (st 0x10 [] []) (0xEA000006, 0)) false false true)).map (fun t => (t.pc, t.prefetched)) =
      some (0x18#32, none) := by
  decide

/-- R10: the run is over at a halt address, and by a predicate on a register and a byte of memory. -/
theorem test_end_of_run :
    step (on (st 0x10 [] []) fun p => { p with endOfRun := haltAtPc 0x8000 }) = .fault .endOfRun ∧
    (on (st 0x10 [] []) fun p => { p with endOfRun := haltAtPc 0x8004 }).ended = false ∧
    (on (st 0x10 [(.r13, 5)] [(0x100, 0x80)]) fun p =>
      { p with endOfRun := .both (.not (.bits (.reg .r13) 1 0)) (.bits (.byte 0x100) 0x80 0x80) }).ended = true :=
  ⟨rfl, by decide, by decide⟩

/-! ## Witnesses: for each statement with hypotheses, states and operands that meet them, clause by clause -/

/-- ResetEvent. -/
theorem witness_ResetEvent :
    (lined (st 0x10 [] []) true true true).ended = false ∧
    (lined (st 0x10 [] []) true true true).lines.reset = true := by
  decide

/-- ResetEvent, the clause about program text. -/
theorem witness_ResetEvent_text :
    (on (lined (st 0x10 [] []) true false false) fun p => { p with text := [⟨0xFFFFFFFF, 1⟩] }).platform.isText
      0xFFFFFFFF#32 = true := by
  decide

/-- EncodeOfDecode. -/
theorem witness_EncodeOfDecode : decode 0xE1D101B2#32 = .ok (.ldrhImm .al true true false 1#4 0#4 0x12#8) := by decide

/-- A word placed after reset under TIER2 = refuse. -/
def tier1Only (w : Nat) : State := on (State.reset.withFetchWord 32 w) fun p => { p with tier2 := .refuse }

/-- StepRunsDecodedInstruction: BX admitted, and under TIER2 = refuse BX where its condition passes and where it fails;
nothing fetched ahead, and a word fetched ahead. -/
theorem witness_StepRunsDecodedInstruction :
    (reachesFetch (State.reset.withFetchWord 32 0xE12FFF1E) = true ∧
      fetchable (State.reset.withFetchWord 32 0xE12FFF1E) = true ∧
      nextInstr (State.reset.withFetchWord 32 0xE12FFF1E) = .ok (.bx .al 14#4) ∧
      admitted (.bx .al 14#4) (State.reset.withFetchWord 32 0xE12FFF1E) = true) ∧
    (reachesFetch (tier1Only 0xE12FFF1E) = true ∧ fetchable (tier1Only 0xE12FFF1E) = true ∧
      nextInstr (tier1Only 0xE12FFF1E) = .ok (.bx .al 14#4) ∧ (Instr.bx .al 14#4).isTier2 = true ∧
      (tier1Only 0xE12FFF1E).platform.tier2 = .refuse ∧ condPassed .al (tier1Only 0xE12FFF1E).cpsr = true) ∧
    (reachesFetch (tier1Only 0x012FFF1E) = true ∧ fetchable (tier1Only 0x012FFF1E) = true ∧
      nextInstr (tier1Only 0x012FFF1E) = .ok (.bx .eq 14#4) ∧ condPassed .eq (tier1Only 0x012FFF1E).cpsr = false) ∧
    (tier1Only 0x012FFF1E).prefetched = none ∧
    nextInstr (ahead (st 0x10 [] []) (0xE12FFF1E, 7)) = .ok (.bx .al 14#4) ∧
    (ahead (st 0x10 [] []) (0xE12FFF1E, 7)).prefetched = some (0xE12FFF1E#32, 7#32) := by
  decide

/-- InterruptEntry: FIQ, IRQ alone, and IRQ beside a masked FIQ. -/
theorem witness_InterruptEntry :
    ((lined (st 0x10 [] []) false true true).lines.fiq = true ∧ psrF (lined (st 0x10 [] []) false true true).cpsr = false) ∧
    ((lined (st 0x10 [] []) false false true).lines.irq = true ∧
      psrI (lined (st 0x10 [] []) false false true).cpsr = false ∧
      (lined (st 0x10 [] []) false false true).lines.fiq = false) ∧
    ((lined (st 0x50 [] []) false true true).lines.irq = true ∧
      psrI (lined (st 0x50 [] []) false true true).cpsr = false ∧
      psrF (lined (st 0x50 [] []) false true true).cpsr = true) ∧
    (lined (st 0x50 [] []) false true true).lines.reset = false ∧
    (lined (st 0x50 [] []) false true true).ended = false := by
  decide

/-- FetchAbort. -/
theorem witness_FetchAbort :
    reachesFetch (aborting (st 0x10 [] []) .fetch 0x8000 4) = true ∧
    (aborting (st 0x10 [] []) .fetch 0x8000 4).platform.abortsAt .fetch 0x8000 4 = true := by
  decide

/-- AccessesWithoutStep, the fetch: the last byte of the word is outside MemMap. -/
theorem witness_AccessesWithoutStep_fetch :
    reachesFetch (on (st 0x10 [] []) fun p => { p with memMap := [⟨0, 0x8003⟩] }) = true ∧
    (on (st 0x10 [] []) fun p => { p with memMap := [⟨0, 0x8003⟩] }).platform.abortsAt .fetch 0x8000 4 = false ∧
    (on (st 0x10 [] []) fun p => { p with memMap := [⟨0, 0x8003⟩] }).platform.mapped 0x8000 4 = false := by
  decide

/-- WordsOfNoRow: the condition 1111, a failing condition, the same at the last word of memory, and the two values of RESERVED_WORD. -/
theorem witness_WordsOfNoRow :
    (reachesFetch (st 0x10 [] [(0x8000, 0xF1A00001)]) = true ∧ fetchable (st 0x10 [] [(0x8000, 0xF1A00001)]) = true ∧
      nextInstr (st 0x10 [] [(0x8000, 0xF1A00001)]) = .neverCondition) ∧
    (nextInstr (st 0x10 [] [(0x8000, 0x01C100D0)]) = .reserved .eq ∧
      condPassed .eq (st 0x10 [] [(0x8000, 0x01C100D0)]).cpsr = false ∧
      fallsThrough (st 0x10 [] [(0x8000, 0x01C100D0)]) = true) ∧
    (nextInstr ((st 0x10 [] [(0xFFFFFFFC, 0x01C100D0)]).setPc 0xFFFFFFFC) = .reserved .eq ∧
      reachesFetch ((st 0x10 [] [(0xFFFFFFFC, 0x01C100D0)]).setPc 0xFFFFFFFC) = true ∧
      fetchable ((st 0x10 [] [(0xFFFFFFFC, 0x01C100D0)]).setPc 0xFFFFFFFC) = true ∧
      fallsThrough ((st 0x10 [] [(0xFFFFFFFC, 0x01C100D0)]).setPc 0xFFFFFFFC) = false) ∧
    (nextInstr (on (st 0x10 [] [(0x8000, 0xE1C100D0)]) fun p => { p with reserved := .refuse }) = .reserved .al ∧
      condPassed .al (st 0x10 [] []).cpsr = true) ∧
    (nextInstr (st 0x10 [] [(0x8000, 0xE1C100D0)]) = .reserved .al ∧
      (st 0x10 [] [(0x8000, 0xE1C100D0)]).platform.reserved = .undefinedTrap) := by
  decide

/-- FailedConditionDoesNothing: the last word but one, and the last. -/
theorem witness_FailedConditionDoesNothing :
    condPassed (Instr.b .eq 0#24).cond ((st 0x10 [] []).setPc 0xFFFFFFF8).cpsr = false ∧
    ((st 0x10 [] []).setPc 0xFFFFFFF8).pc ≠ 0xFFFFFFFC#32 ∧
    condPassed (Instr.b .eq 0#24).cond ((st 0x10 [] []).setPc 0xFFFFFFFC).cpsr = false ∧
    ((st 0x10 [] []).setPc 0xFFFFFFFC).pc = 0xFFFFFFFC#32 := by
  decide

/-- IllFormedIsRefused: each of the three names. -/
theorem witness_IllFormedIsRefused :
    ((Instr.mul .al false 0#4 0#4 0#4).wellFormed = false ∧ condPassed .al (st 0x10 [] []).cpsr = true) ∧
    refusal 0xE0000090#32 (st 0x10 [] []) = some .unpredictableOperands ∧
    refusal 0xE4B10004#32 (st 0x10 [] []) = some .userTransfer ∧
    refusal 0xE8F00006#32 (st 0x12 [] []) = some .userBankForm := by
  decide

/-- RegisterBanks: R14, R12 and R7 of two modes, and a write of R14. -/
theorem witness_RegisterBanks :
    (14#4 : Reg) ≠ 15#4 ∧ Bank.und ≠ .usr ∧ physReg .fiq 14#4 ≠ physReg .svc 14#4 ∧ physReg .fiq 12#4 ≠ physReg .svc 12#4 ∧
    physReg .irq 12#4 = physReg .svc 12#4 ∧ physReg .fiq 7#4 = physReg .svc 7#4 ∧
    ((st 0x11 [] []).setReg 14#4 5).phys .r14Fiq = 5#32 := by
  decide

/-- ConditionsCompare: equal operands, and the most negative word below 1 in two's complement. -/
theorem witness_ConditionsCompare :
    psrFlags 0x60000010#32 = arithNzcv .sub 7#32 7#32 true ∧
    psrFlags 0x30000010#32 = arithNzcv .sub 0x80000000#32 1#32 true := by
  decide

/-- WriteThenRead: the highest of the four bytes, and an address beside them; the addresses wrap. -/
theorem witness_WriteThenRead :
    Memory.wf [(0, 1#8)] = true ∧ (3 < 4) ∧ 2#32 ∉ addrBytes 0xFFFFFFFE#32 4 ∧
    0xFFFFFFFD#32 ∉ addrBytes 0xFFFFFFFE#32 4 ∧ 0#32 ∉ addrBytes 0xFFFFFFFE#32 2 := by
  decide

/-- ShiftByImmediate: both ends of the range of the amount. -/
theorem witness_ShiftByImmediate : (1 ≤ 1 ∧ 1 ≤ 31) ∧ (1 ≤ 31 ∧ 31 ≤ 31) := by decide

/-- ShiftByRegister: each clause at the ends of its range; no amount and shift type fall under two clauses that differ. -/
theorem witness_ShiftByRegister :
    (14#4 : Reg) ≠ 15#4 ∧ (0 ≤ 255 ∧ 0 = 0) ∧ (1 ≤ 1 ∧ 1 ≤ 31) ∧ (1 ≤ 31 ∧ 31 ≤ 31) ∧ (32 = 32 ∧ ShiftType.lsl = .lsl) ∧
    (32 = 32 ∧ ShiftType.lsr = .lsr) ∧ (33 ≤ 33 ∧ (ShiftType.lsl = .lsl ∨ ShiftType.lsl = .lsr)) ∧
    (32 ≤ 255 ∧ ShiftType.asr = .asr) ∧ (1 ≤ 224 ∧ 224 % 32 = 0 ∧ ShiftType.ror = .ror) ∧
    (33 ≤ 255 ∧ 255 % 32 ≠ 0 ∧ ShiftType.ror = .ror) := by
  decide

/-- At the last word of memory, past which no instruction falls through. -/
def lastWord (cpsr : Word) : State := (st cpsr [] []).setPc 0xFFFFFFFC

/-- LogicalResult: MOVS with RRX, at the highest register, and at the last word of memory. -/
theorem witness_LogicalResult :
    DpOp.mov.logical = true ∧ (14#4 : Reg) ≠ 15#4 ∧
    runs (DpOp.mov.instr .cs true 15#4 14#4 (.shiftImm 0#5 .ror 15#4)) (st 0x20000010 [] []) = true ∧
    fallsThrough (st 0x20000010 [] []) = true ∧
    runs (DpOp.mov.instr .cs true 15#4 14#4 (.shiftImm 0#5 .ror 15#4)) (lastWord 0x20000010) = true ∧
    fallsThrough (lastWord 0x20000010) = false := by
  decide

/-- ArithmeticResult: RSCS with a shift by register, and at the last word of memory. -/
theorem witness_ArithmeticResult :
    DpOp.rsc.logical = false ∧ (0#4 : Reg) ≠ 15#4 ∧
    runs (DpOp.rsc.instr .al true 15#4 0#4 (.shiftReg 2#4 .asr 15#4)) (st 0x10 [] []) = true ∧
    fallsThrough (st 0x10 [] []) = true ∧
    runs (DpOp.rsc.instr .al true 15#4 0#4 (.shiftReg 2#4 .asr 15#4)) (lastWord 0x10) = true ∧
    fallsThrough (lastWord 0x10) = false := by
  decide

/-- TestsSetFlagsOnly: CMP, and at the last word of memory. -/
theorem witness_TestsSetFlagsOnly :
    runs (TestOp.cmp.instr .al 15#4 (.imm 15#4 0xFF#8)) (st 0x10 [] []) = true ∧
    fallsThrough (st 0x10 [] []) = true ∧
    runs (TestOp.cmp.instr .al 15#4 (.imm 15#4 0xFF#8)) (lastWord 0x10) = true ∧
    fallsThrough (lastWord 0x10) = false := by
  decide

/-- DataProcessingJump: an aligned result and a misaligned one. -/
theorem witness_DataProcessingJump :
    runs (DpOp.mov.instr .al false 0#4 15#4 (.shiftImm 0#5 .lsl 14#4)) (st 0x10 [(.r14, 0xFFFFFFFC)] []) = true ∧
    wordAligned (DpOp.mov.result 0 ((Op2.shiftImm 0#5 .lsl 14#4).out (st 0x10 [(.r14, 0xFFFFFFFC)] [])).value false) = true ∧
    wordAligned (DpOp.mov.result 0 ((Op2.shiftImm 0#5 .lsl 14#4).out (st 0x10 [(.r14, 0xFFFFFFFE)] [])).value false) =
      false := by
  decide

/-- DataProcessingReturn: no SPSR in User mode, and in Supervisor mode a misaligned result, and an SPSR with T = 1, with
no mode, and with one. -/
theorem witness_DataProcessingReturn :
    (runs (DpOp.sub.instr .al true 14#4 15#4 (.imm 0#4 4#8)) (st 0x10 [(.r14, 0x8008)] []) = true ∧
      (st 0x10 [(.r14, 0x8008)] []).spsrOf (st 0x10 [(.r14, 0x8008)] []).bank = none) ∧
    (runs (DpOp.sub.instr .al true 14#4 15#4 (.imm 0#4 4#8)) (st 0x13 [(.r14Svc, 0x8008)] []) = true ∧
      wordAligned (DpOp.sub.result ((Op2.imm 0#4 4#8).first (st 0x13 [(.r14Svc, 0x8008)] []) 14#4)
        ((Op2.imm 0#4 4#8).out (st 0x13 [(.r14Svc, 0x8008)] [])).value false) = true) ∧
    wordAligned (DpOp.sub.result ((Op2.imm 0#4 4#8).first (st 0x13 [(.r14Svc, 0x8009)] []) 14#4)
        ((Op2.imm 0#4 4#8).out (st 0x13 [(.r14Svc, 0x8009)] [])).value false) = false ∧
    (((st 0x13 [] []).setSpsr .svc 0x30).spsrOf ((st 0x13 [] []).setSpsr .svc 0x30).bank = some 0x30#32 ∧
      psrT 0x30#32 = true) ∧
    (((st 0x13 [] []).setSpsr .svc 0).spsrOf ((st 0x13 [] []).setSpsr .svc 0).bank = some 0#32 ∧
      psrT 0#32 = false ∧ Mode.ofBits (psrM 0#32) = none) ∧
    (((st 0x13 [] []).setSpsr .svc 0x10).spsrOf ((st 0x13 [] []).setSpsr .svc 0x10).bank = some 0x10#32 ∧
      psrT 0x10#32 = false ∧ Mode.ofBits (psrM 0x10#32) ≠ none) := by
  decide

/-- BranchAndLink. -/
theorem witness_BranchAndLink :
    condPassed .al (st 0x10 [] []).cpsr = true ∧ wordAligned (st 0x10 [] []).pc = true := by
  decide

/-- BranchExchange: bit 0 set, bit 1 set, and neither. -/
theorem witness_BranchExchange :
    (runs (.bx .al 14#4) (st 0x10 [(.r14, 0x8007)] []) = true ∧
      ((st 0x10 [(.r14, 0x8007)] []).phys (physReg (st 0x10 [(.r14, 0x8007)] []).bank 14#4)).getLsbD 0 = true) ∧
    (((st 0x10 [(.r14, 0x8006)] []).phys (physReg (st 0x10 [(.r14, 0x8006)] []).bank 14#4)).getLsbD 0 = false ∧
      ((st 0x10 [(.r14, 0x8006)] []).phys (physReg (st 0x10 [(.r14, 0x8006)] []).bank 14#4)).getLsbD 1 = true) ∧
    (((st 0x10 [(.r14, 0x8004)] []).phys (physReg (st 0x10 [(.r14, 0x8004)] []).bank 14#4)).getLsbD 0 = false ∧
      ((st 0x10 [(.r14, 0x8004)] []).phys (physReg (st 0x10 [(.r14, 0x8004)] []).bank 14#4)).getLsbD 1 = false) := by
  decide

/-- MrsReadsStatus: with an SPSR and without. -/
theorem witness_MrsReadsStatus :
    (runs (.mrs .al false 0#4) (st 0x12 [] []) = true ∧ fallsThrough (st 0x12 [] []) = true ∧
      (st 0x12 [] []).spsrOf (st 0x12 [] []).bank = some 0#32) ∧
    (runs (.mrs .al false 14#4) (st 0x1F [] []) = true ∧ fallsThrough (st 0x1F [] []) = true ∧
      (st 0x1F [] []).spsrOf (st 0x1F [] []).bank = none) := by
  decide

/-- MsrWritesCpsr: T would change, M would be no mode, and a write that is let through. -/
theorem witness_MsrWritesCpsr :
    psrM (st 0x13 [] []).cpsr ≠ 0b10000#5 ∧
    (runs ((MsrOperand.imm 0#4 0xF3#8).instr .al false 1#4) (st 0x13 [] []) = true ∧ (1#4).getLsbD 0 = true ∧
      psrT ((MsrOperand.imm 0#4 0xF3#8).value (st 0x13 [] [])) ≠ psrT (st 0x13 [] []).cpsr) ∧
    (runs ((MsrOperand.imm 0#4 0xC0#8).instr .al false 15#4) (st 0x13 [] []) = true ∧
      psrT ((MsrOperand.imm 0#4 0xC0#8).value (st 0x13 [] [])) = psrT (st 0x13 [] []).cpsr ∧
      Mode.ofBits (psrM ((MsrOperand.imm 0#4 0xC0#8).value (st 0x13 [] []))) = none) ∧
    (runs ((MsrOperand.reg 14#4).instr .al false 15#4) (st 0x13 [(.r14Svc, 0xF00000DF)] []) = true ∧
      fallsThrough (st 0x13 [(.r14Svc, 0xF00000DF)] []) = true ∧
      psrT ((MsrOperand.reg 14#4).value (st 0x13 [(.r14Svc, 0xF00000DF)] [])) = psrT (st 0x13 [] []).cpsr ∧
      Mode.ofBits (psrM ((MsrOperand.reg 14#4).value (st 0x13 [(.r14Svc, 0xF00000DF)] []))) ≠ none) := by
  decide

/-- MsrInUserMode. -/
theorem witness_MsrInUserMode :
    psrM (st 0x10 [] []).cpsr = 0b10000#5 ∧
    runs ((MsrOperand.reg 0#4).instr .al false 9#4) (st 0x10 [(.r0, 0xF00000D3)] []) = true ∧
    fallsThrough (st 0x10 [(.r0, 0xF00000D3)] []) = true := by
  decide

/-- MsrWritesSpsr: without an SPSR and with one. -/
theorem witness_MsrWritesSpsr :
    (runs ((MsrOperand.imm 0#4 0x10#8).instr .al true 9#4) (st 0x10 [] []) = true ∧ fallsThrough (st 0x10 [] []) = true ∧
      (st 0x10 [] []).spsrOf (st 0x10 [] []).bank = none) ∧
    (runs ((MsrOperand.imm 0#4 0x10#8).instr .al true 9#4) (st 0x11 [] []) = true ∧ fallsThrough (st 0x11 [] []) = true ∧
      (st 0x11 [] []).spsrOf (st 0x11 [] []).bank = some 0#32) := by
  decide

/-- TransferAddresses: R15 as the base, and R14. -/
theorem witness_TransferAddresses :
    (0x8008#32 = if (15#4 : Reg) = 15#4 then (st 0x10 [] []).pc + 8
      else (st 0x10 [] []).phys (physReg (st 0x10 [] []).bank 15#4)) ∧
    (5#32 = if (14#4 : Reg) = 15#4 then (st 0x10 [(.r14, 5)] []).pc + 8
      else (st 0x10 [(.r14, 5)] []).phys (physReg (st 0x10 [(.r14, 5)] []).bank 14#4)) := by
  decide

/-- LdrLoadsWord: a misaligned address in the last word of memory, post-indexed. -/
theorem witness_LdrLoadsWord :
    (14#4 : Reg) ≠ 15#4 ∧
    runs ((WordOffset.reg 31#5 .ror 2#4).ldr .al false true false 1#4 14#4) (st 0x10 [(.r1, 0xFFFFFFFD)] []) = true ∧
    fallsThrough (st 0x10 [(.r1, 0xFFFFFFFD)] []) = true ∧
    wordAccessOk (st 0x10 [(.r1, 0xFFFFFFFD)] []) (transferAddress (st 0x10 [(.r1, 0xFFFFFFFD)] []) false true 1#4
      ((WordOffset.reg 31#5 .ror 2#4).value (st 0x10 [(.r1, 0xFFFFFFFD)] []))) = true ∧
    readable (st 0x10 [(.r1, 0xFFFFFFFD)] []) (alignDown (transferAddress (st 0x10 [(.r1, 0xFFFFFFFD)] []) false true 1#4
      ((WordOffset.reg 31#5 .ror 2#4).value (st 0x10 [(.r1, 0xFFFFFFFD)] [])))) 4 = true := by
  decide

/-- The word at 0x3FFC loaded through R13. -/
def popped (v : Word) : State := st 0x10 [(.r13, 0x3FFC)] [(0x3FFC, v)]

/-- LdrJumps: an aligned word and a misaligned one. -/
theorem witness_LdrJumps :
    runs ((WordOffset.imm 4#12).ldr .al false true false 13#4 15#4) (popped 0x8124) = true ∧
    wordAccessOk (popped 0x8124) (transferAddress (popped 0x8124) false true 13#4 4#32) = true ∧
    readable (popped 0x8124) (alignDown (transferAddress (popped 0x8124) false true 13#4 4#32)) 4 = true ∧
    (WordOffset.imm 4#12).value (popped 0x8124) = 4#32 ∧
    wordAligned (loadedWord (popped 0x8124) (transferAddress (popped 0x8124) false true 13#4 4#32)) = true ∧
    wordAligned (loadedWord (popped 0x8126) (transferAddress (popped 0x8126) false true 13#4 4#32)) = false := by
  decide

/-- R1 at the last byte of memory. -/
def atTop : State := st 0x10 [(.r1, 0xFFFFFFFF)] []

/-- LdrbLoadsByte and StrbStoresByte: the last byte of memory. -/
theorem witness_byte_transfers :
    runs ((WordOffset.imm 0#12).ldrb .al true true false 1#4 14#4) atTop = true ∧
    runs ((WordOffset.imm 0#12).strb .al true true false 1#4 14#4) atTop = true ∧ fallsThrough atTop = true ∧
    atTop.mem.wf = true ∧
    readable atTop (transferAddress atTop true true 1#4 ((WordOffset.imm 0#12).value atTop)) 1 = true ∧
    writable atTop (transferAddress atTop true true 1#4 ((WordOffset.imm 0#12).value atTop)) 1 = true := by
  decide

/-- StrStoresWord: a misaligned address in the last word of memory, R15 stored. -/
theorem witness_StrStoresWord :
    atTop.mem.wf = true ∧ runs ((WordOffset.imm 0#12).str .al true true false 1#4 15#4) atTop = true ∧
    fallsThrough atTop = true ∧
    wordAccessOk atTop (transferAddress atTop true true 1#4 ((WordOffset.imm 0#12).value atTop)) = true ∧
    writable atTop (alignDown (transferAddress atTop true true 1#4 ((WordOffset.imm 0#12).value atTop))) 4 = true := by
  decide

/-- R1 at the last halfword of memory. -/
def atTopHalf : State := st 0x10 [(.r1, 0xFFFFFFFE)] []

/-- HalfwordAndSignedLoads and HalfwordStore: the last halfword of memory, and its last byte. -/
theorem witness_halfword_transfers :
    fallsThrough atTopHalf = true ∧ atTopHalf.mem.wf = true ∧
    runs ((HalfOffset.imm 0#8).ldrh .al true true false 1#4 0#4) atTopHalf = true ∧
    runs ((HalfOffset.imm 0#8).ldrsh .al true true false 1#4 0#4) atTopHalf = true ∧
    runs ((HalfOffset.imm 0#8).strh .al true true false 1#4 0#4) atTopHalf = true ∧
    (transferAddress atTopHalf true true 1#4 ((HalfOffset.imm 0#8).value atTopHalf)).getLsbD 0 = false ∧
    readable atTopHalf (transferAddress atTopHalf true true 1#4 ((HalfOffset.imm 0#8).value atTopHalf)) 2 = true ∧
    writable atTopHalf (transferAddress atTopHalf true true 1#4 ((HalfOffset.imm 0#8).value atTopHalf)) 2 = true ∧
    runs ((HalfOffset.imm 1#8).ldrsb .al true true false 1#4 0#4) atTopHalf = true ∧
    readable atTopHalf (transferAddress atTopHalf true true 1#4 ((HalfOffset.imm 1#8).value atTopHalf)) 1 = true := by
  decide

/-- R1 = 0x1000, where every read and write aborts. -/
def allAborts : State :=
  on (st 0x10 [(.r1, 0x1000)] []) fun p =>
    { p with aborts := [1, 2, 4].flatMap fun n => [⟨.read, n, ⟨0x1000, 1⟩⟩, ⟨.write, n, ⟨0x1000, 1⟩⟩] }

/-- DataAbortEntry: each of its eight clauses. -/
theorem witness_DataAbortEntry :
    (WordOffset.imm 0#12).value allAborts = 0#32 ∧ (HalfOffset.imm 0#8).value allAborts = 0#32 ∧
    runs ((WordOffset.imm 0#12).ldr .al true true false 1#4 0#4) allAborts = true ∧
    runs ((WordOffset.imm 0#12).str .al true true false 1#4 0#4) allAborts = true ∧
    runs ((WordOffset.imm 0#12).ldrb .al true true false 1#4 0#4) allAborts = true ∧
    runs ((WordOffset.imm 0#12).strb .al true true false 1#4 0#4) allAborts = true ∧
    runs ((HalfOffset.imm 0#8).ldrh .al true true false 1#4 0#4) allAborts = true ∧
    runs ((HalfOffset.imm 0#8).ldrsh .al true true false 1#4 0#4) allAborts = true ∧
    runs ((HalfOffset.imm 0#8).ldrsb .al true true false 1#4 0#4) allAborts = true ∧
    runs ((HalfOffset.imm 0#8).strh .al true true false 1#4 0#4) allAborts = true ∧
    wordAccessOk allAborts (transferAddress allAborts true true 1#4 0) = true ∧
    (transferAddress allAborts true true 1#4 0).getLsbD 0 = false ∧
    allAborts.platform.abortsAt .read (alignDown (transferAddress allAborts true true 1#4 0)) 4 = true ∧
    allAborts.platform.abortsAt .write (alignDown (transferAddress allAborts true true 1#4 0)) 4 = true ∧
    allAborts.platform.abortsAt .read (transferAddress allAborts true true 1#4 0) 2 = true ∧
    allAborts.platform.abortsAt .write (transferAddress allAborts true true 1#4 0) 2 = true ∧
    allAborts.platform.abortsAt .read (transferAddress allAborts true true 1#4 0) 1 = true ∧
    allAborts.platform.abortsAt .write (transferAddress allAborts true true 1#4 0) 1 = true := by
  decide

/-- R1 odd, misaligned words refused, the byte at R1 program text. -/
def oddText : State :=
  on (st 0x10 [(.r1, 0x1001)] []) fun p => { p with misaligned := .refuse, text := [⟨0x1001, 1⟩] }

/-- R1 at the first byte past MemMap. -/
def pastMap : State := on (st 0x10 [(.r1, 0x1000)] []) fun p => { p with memMap := [⟨0, 0x1000⟩] }

/-- R1 on a byte of program text. -/
def onText : State := on (st 0x10 [(.r1, 0x1000)] []) fun p => { p with text := [⟨0x1000, 1⟩] }

/-- R1 misaligned in IRQ mode, misaligned words refused. -/
def irqOdd : State := on (st 0x12 [(.r1, 0x1001)] []) fun p => { p with misaligned := .refuse }

/-- R1 such that the second word above it is past MemMap, but for its first byte. -/
def blockPast : State := on (st 0x10 [(.r1, 0x1000)] []) fun p => { p with memMap := [⟨0, 0x1009⟩] }

/-- R1 such that the last byte of the second word above it is program text. -/
def blockText : State := on (st 0x10 [(.r1, 0x1000)] []) fun p => { p with text := [⟨0x100B, 1⟩] }

/-- The single word accesses at R1. -/
def wordForms : List AccessForm :=
  [.ldr (.imm 0#12) true true false 1#4 0#4, .str (.imm 0#12) true true false 1#4 0#4, .swp 1#4 0#4 2#4]

/-- The halfword accesses at R1. -/
def halfForms : List AccessForm :=
  [.ldrh (.imm 0#8) true true false 1#4 0#4, .ldrsh (.imm 0#8) true true false 1#4 0#4,
    .strh (.imm 0#8) true true false 1#4 0#4]

/-- The byte accesses at R1. -/
def byteForms : List AccessForm :=
  [.ldrb (.imm 0#12) true true false 1#4 0#4, .strb (.imm 0#12) true true false 1#4 0#4,
    .ldrsb (.imm 0#8) true true false 1#4 0#4, .swpb 1#4 0#4 2#4]

/-- AccessesWithoutStep: a misaligned word and an odd halfword. -/
theorem witness_AccessesWithoutStep_aligned :
    (∀ f ∈ wordForms, f.width = 4 ∧ runs (f.instr .al) oddText = true ∧ wordAligned (f.address oddText) = false) ∧
    (∀ f ∈ halfForms, f.width = 2 ∧ runs (f.instr .al) oddText = true ∧ (f.address oddText).getLsbD 0 = true) ∧
    oddText.platform.misaligned = .refuse := by
  decide

/-- AccessesWithoutStep: the first byte past MemMap, for every form. -/
theorem witness_AccessesWithoutStep_unmapped :
    ∀ f ∈ wordForms ++ halfForms ++ byteForms, runs (f.instr .al) pastMap = true ∧ f.alignedOk pastMap = true ∧
      pastMap.platform.abortsAt f.firstKind (f.seen pastMap) f.width = false ∧
      pastMap.platform.mapped (f.seen pastMap) f.width = false := by
  decide

/-- AccessesWithoutStep: a word, a halfword and a byte stored and swapped where the byte at 0x1000 is program text. -/
theorem witness_AccessesWithoutStep_text :
    ∀ f ∈ (wordForms ++ halfForms ++ byteForms).filter (·.writes), f.writes = true ∧ runs (f.instr .al) onText = true ∧
      f.alignedOk onText = true ∧ readable onText (f.seen onText) f.width = true ∧
      onText.platform.abortsAt .write (f.seen onText) f.width = false ∧
      onText.platform.mapped (f.seen onText) f.width = true ∧
      onText.platform.inText (f.seen onText) f.width = true := by
  decide

/-- AccessesWithoutStep: LDM and STM of R2 and R14, with `^` and without, from a misaligned base, and with the word of
R14 past MemMap and in program text. -/
theorem witness_AccessesWithoutStep_block :
    (hasSpsr irqOdd = true ∧ runs (BlockMode.ib.ldm .al true false 1#4 0x4004#16) irqOdd = true ∧
      runs (BlockMode.ib.stm .al true false 1#4 0x4004#16) irqOdd = true ∧ wordAligned (irqOdd.reg 1#4) = false ∧
      irqOdd.platform.misaligned = .refuse) ∧
    (runs (BlockMode.ib.ldm .al false true 1#4 0x4004#16) blockPast = true ∧
      runs (BlockMode.ib.stm .al false true 1#4 0x4004#16) blockPast = true ∧
      wordAccessOk blockPast (blockPast.reg 1#4) = true ∧ (0x4004#16).getLsbD (14#4).toNat = true ∧
      blockPast.platform.mapped (slot blockPast .ib 1#4 0x4004#16 14#4) 4 = false ∧
      (∀ r : Reg, r.toNat < (14#4).toNat → (0x4004#16).getLsbD r.toNat = true →
        readable blockPast (slot blockPast .ib 1#4 0x4004#16 r) 4 = true ∧
          writable blockPast (slot blockPast .ib 1#4 0x4004#16 r) 4 = true) ∧
      ∀ k, blockPast.platform.abortsAt k (slot blockPast .ib 1#4 0x4004#16 14#4) 4 = false) ∧
    (runs (BlockMode.ib.stm .al false true 1#4 0x4004#16) blockText = true ∧
      wordAccessOk blockText (blockText.reg 1#4) = true ∧
      blockText.platform.abortsAt .write (slot blockText .ib 1#4 0x4004#16 14#4) 4 = false ∧
      blockText.platform.mapped (slot blockText .ib 1#4 0x4004#16 14#4) 4 = true ∧
      blockText.platform.inText (slot blockText .ib 1#4 0x4004#16 14#4) 4 = true ∧
      ∀ r : Reg, r.toNat < (14#4).toNat → (0x4004#16).getLsbD r.toNat = true →
        writable blockText (slot blockText .ib 1#4 0x4004#16 r) 4 = true) :=
  ⟨by decide, ⟨by decide, by decide, by decide, by decide, by decide, by decide, fun _ => rfl⟩, by decide⟩

/-- R0 misaligned near the top of memory, in IRQ mode, with an SPSR of User mode. -/
def blockState : State := (st 0x92 [(.r0, 0xFFFFFFF6)] [(0xFFFFFFFC, 0x8010)]).setSpsr .irq 0x10

/-- LdmLoadsRegisters and StmStoresRegisters: the base in the list of the load, the last word of memory reached. -/
theorem witness_block_transfers :
    (0x4003#16).getLsbD 15 = false ∧ runs (BlockMode.ia.ldm .al false false 0#4 0x4003#16) blockState = true ∧
    runs (BlockMode.ia.stm .al false true 0#4 0xC002#16) blockState = true ∧ fallsThrough blockState = true ∧
    blockState.mem.wf = true ∧ wordAccessOk blockState (blockState.reg 0#4) = true ∧
    blockReadable blockState .ia 0#4 0x4003#16 ∧ blockWritable blockState .ia 0#4 0xC002#16 := by
  unfold blockReadable blockWritable
  decide

/-- LdmJumps: R15 alone and misaligned, and R15 last and aligned. -/
theorem witness_LdmJumps :
    ((0x8000#16).getLsbD 15 = true ∧ runs (BlockMode.da.ldm .al false true 0#4 0x8000#16) (st 0x10 [(.r0, 0x1000)]
        [(0x1000, 2)]) = true ∧
      blockReadable (st 0x10 [(.r0, 0x1000)] [(0x1000, 2)]) .da 0#4 0x8000#16 ∧
      wordAligned (slotWord (st 0x10 [(.r0, 0x1000)] [(0x1000, 2)]) .da 0#4 0x8000#16 15#4) = false) ∧
    ((0xC002#16).getLsbD 15 = true ∧ runs (BlockMode.ia.ldm .al false true 0#4 0xC002#16) blockState = true ∧
      wordAccessOk blockState (blockState.reg 0#4) = true ∧ blockReadable blockState .ia 0#4 0xC002#16 ∧
      wordAligned (slotWord blockState .ia 0#4 0xC002#16 15#4) = true) := by
  unfold blockReadable
  decide

/-- LdmReturns: in IRQ mode with the SPSR a mode, Thumb, and no mode, with a misaligned word for R15, and in System mode
without an SPSR. -/
theorem witness_LdmReturns :
    ((0xC002#16).getLsbD 15 = true ∧ runs (BlockMode.ia.ldm .al true true 0#4 0xC002#16) blockState = true ∧
      wordAccessOk blockState (blockState.reg 0#4) = true ∧ blockReadable blockState .ia 0#4 0xC002#16 ∧
      blockState.spsrOf blockState.bank = some 0x10#32 ∧ psrT 0x10#32 = false ∧ Mode.ofBits (psrM 0x10#32) ≠ none ∧
      wordAligned (slotWord blockState .ia 0#4 0xC002#16 15#4) = true) ∧
    (runs (BlockMode.ia.ldm .al true true 0#4 0xC002#16) (blockState.setCpsr 0x1F) = true ∧
      (blockState.setCpsr 0x1F).spsrOf (blockState.setCpsr 0x1F).bank = none) ∧
    (runs (BlockMode.da.ldm .al true false 0#4 0x8000#16) (st 0x12 [(.r0, 0x1000)] [(0x1000, 2)]) = true ∧
      blockReadable (st 0x12 [(.r0, 0x1000)] [(0x1000, 2)]) .da 0#4 0x8000#16 ∧
      wordAccessOk (st 0x12 [(.r0, 0x1000)] [(0x1000, 2)]) 0x1000#32 = true ∧
      (st 0x12 [(.r0, 0x1000)] [(0x1000, 2)]).spsrOf (st 0x12 [(.r0, 0x1000)] [(0x1000, 2)]).bank = some 0#32 ∧
      wordAligned (slotWord (st 0x12 [(.r0, 0x1000)] [(0x1000, 2)]) .da 0#4 0x8000#16 15#4) = false) ∧
    ((blockState.setSpsr .irq 0x30).spsrOf (blockState.setSpsr .irq 0x30).bank = some 0x30#32 ∧ psrT 0x30#32 = true) ∧
    ((blockState.setSpsr .irq 0).spsrOf (blockState.setSpsr .irq 0).bank = some 0#32 ∧
      psrT 0#32 = false ∧ Mode.ofBits (psrM 0#32) = none) := by
  unfold blockReadable
  decide

/-- LdmUserBank and StmUserBank: in IRQ mode, and in User mode. -/
theorem witness_user_bank :
    ((0x6001#16).getLsbD 15 = false ∧ runs (BlockMode.ib.ldm .al true false 0#4 0x6001#16) (blockState.setReg 0#4 0) = true ∧
      hasSpsr (blockState.setReg 0#4 0) = true ∧ fallsThrough (blockState.setReg 0#4 0) = true ∧
      wordAccessOk (blockState.setReg 0#4 0) ((blockState.setReg 0#4 0).reg 0#4) = true ∧
      blockReadable (blockState.setReg 0#4 0) .ib 0#4 0x6001#16) ∧
    (runs (BlockMode.ib.stm .al true false 0#4 0xE001#16) (blockState.setReg 0#4 0) = true ∧
      (blockState.setReg 0#4 0).mem.wf = true ∧ blockWritable (blockState.setReg 0#4 0) .ib 0#4 0xE001#16) ∧
    (runs (BlockMode.ib.ldm .al true false 0#4 0x6001#16) (st 0x10 [] []) = true ∧
      runs (BlockMode.ib.stm .al true false 0#4 0xE001#16) (st 0x10 [] []) = true ∧ hasSpsr (st 0x10 [] []) = false) := by
  unfold blockReadable blockWritable
  decide

/-- R0 = 0x1000, where the second word of a block aborts. -/
def secondAborts : State :=
  on (st 0x13 [(.r0, 0x1000)] []) fun p => { p with aborts := [⟨.read, 4, ⟨0x1004, 1⟩⟩, ⟨.write, 4, ⟨0x1004, 1⟩⟩] }

/-- BlockAborts: LDM and STM of R1 and R14 aborted at R14, with `^` and without. -/
theorem witness_BlockAborts :
    wordAccessOk secondAborts (secondAborts.reg 0#4) = true ∧ (0x4002#16).getLsbD (14#4).toNat = true ∧
    hasSpsr secondAborts = true ∧ secondAborts.mem.wf = true ∧
    (runs (BlockMode.ia.ldm .al true false 0#4 0x4002#16) secondAborts = true ∧
      runs (BlockMode.ia.ldm .al false true 0#4 0x4002#16) secondAborts = true ∧
      secondAborts.platform.abortsAt .read (slot secondAborts .ia 0#4 0x4002#16 14#4) 4 = true ∧
      ∀ r : Reg, r.toNat < (14#4).toNat → (0x4002#16).getLsbD r.toNat = true →
        readable secondAborts (slot secondAborts .ia 0#4 0x4002#16 r) 4 = true) ∧
    (runs (BlockMode.ia.stm .al false true 0#4 0x4002#16) secondAborts = true ∧
      runs (BlockMode.ia.stm .al true false 0#4 0x4002#16) secondAborts = true ∧
      secondAborts.platform.abortsAt .write (slot secondAborts .ia 0#4 0x4002#16 14#4) 4 = true ∧
      ∀ r : Reg, r.toNat < (14#4).toNat → (0x4002#16).getLsbD r.toNat = true →
        writable secondAborts (slot secondAborts .ia 0#4 0x4002#16 r) 4 = true) := by
  decide

/-- MultiplyResult. -/
theorem witness_MultiplyResult :
    fallsThrough (st 0x10 [] []) = true ∧ runs (.mul .al true 0#4 0#4 1#4) (st 0x10 [] []) = true ∧
    runs (.mla .al true 0#4 0#4 0#4 1#4) (st 0x10 [] []) = true := by
  decide

/-- UnsignedLongMultiply and SignedLongMultiply. -/
theorem witness_long_multiply :
    fallsThrough (st 0x10 [] []) = true ∧ runs (.umull .al true 1#4 0#4 3#4 2#4) (st 0x10 [] []) = true ∧
    runs (.umlal .al true 1#4 0#4 0#4 2#4) (st 0x10 [] []) = true ∧
    runs (.smull .al true 1#4 0#4 2#4 2#4) (st 0x10 [] []) = true ∧
    runs (.smlal .al false 14#4 0#4 3#4 2#4) (st 0x10 [] []) = true := by
  decide

/-- SwapExchanges: the last word and the last byte of memory, Rd = Rm. -/
theorem witness_SwapExchanges :
    atTop.mem.wf = true ∧ fallsThrough atTop = true ∧ runs (.swp .al 1#4 0#4 0#4) atTop = true ∧
    wordAccessOk atTop (atTop.phys (physReg atTop.bank 1#4)) = true ∧
    readable atTop (alignDown (atTop.phys (physReg atTop.bank 1#4))) 4 = true ∧
    writable atTop (alignDown (atTop.phys (physReg atTop.bank 1#4))) 4 = true ∧
    runs (.swpb .al 1#4 0#4 0#4) atTop = true ∧ readable atTop (atTop.phys (physReg atTop.bank 1#4)) 1 = true ∧
    writable atTop (atTop.phys (physReg atTop.bank 1#4)) 1 = true := by
  decide

/-- SwapAborts: the read aborted, and the write alone. -/
theorem witness_SwapAborts :
    (runs (.swp .al 1#4 0#4 2#4) allAborts = true ∧ runs (.swpb .al 1#4 0#4 2#4) allAborts = true ∧
      wordAccessOk allAborts (allAborts.phys (physReg allAborts.bank 1#4)) = true ∧
      allAborts.platform.abortsAt .read (alignDown (allAborts.phys (physReg allAborts.bank 1#4))) 4 = true ∧
      allAborts.platform.abortsAt .read (allAborts.phys (physReg allAborts.bank 1#4)) 1 = true) ∧
    (wordAccessOk (aborting atTop .write 0xFFFFFFFC 4) 0xFFFFFFFF#32 = true ∧
      (aborting atTop .write 0xFFFFFFFC 4).phys (physReg atTop.bank 1#4) = 0xFFFFFFFF#32 ∧
      runs (.swp .al 1#4 0#4 2#4) (aborting atTop .write 0xFFFFFFFC 4) = true ∧
      readable (aborting atTop .write 0xFFFFFFFC 4) (alignDown 0xFFFFFFFF#32) 4 = true ∧
      (aborting atTop .write 0xFFFFFFFC 4).platform.abortsAt .write (alignDown 0xFFFFFFFF#32) 4 = true) ∧
    ((aborting atTop .write 0xFFFFFFFF 1).phys (physReg atTop.bank 1#4) = 0xFFFFFFFF#32 ∧
      runs (.swpb .al 1#4 0#4 2#4) (aborting atTop .write 0xFFFFFFFF 1) = true ∧
      readable (aborting atTop .write 0xFFFFFFFF 1) 0xFFFFFFFF#32 1 = true ∧
      (aborting atTop .write 0xFFFFFFFF 1).platform.abortsAt .write 0xFFFFFFFF#32 1 = true) := by
  decide

/-- InstructionsThatTrap. -/
theorem witness_InstructionsThatTrap :
    condPassed (Instr.undefined .cs 0#20 0#4).cond 0x20000010#32 = true ∧
    condPassed (Instr.cdp .al 0#4 0#4 0#4 0#4 0#3 0#4).cond 0x10#32 = true ∧ condPassed .al 0x10#32 = true := by
  decide

/-- ReturnRestores: each of the six exceptions entered from the pc 0x8000, and its general clause at the IRQ. -/
theorem witness_ReturnRestores :
    (psrT (st 0x60000010 [] []).cpsr = false ∧ Mode.ofBits (psrM (st 0x60000010 [] []).cpsr) ≠ none ∧
      wordAligned (st 0x60000010 [] []).pc = true) ∧
    Entered (st 0x60000010 [] []) ((st 0x60000010 [] []).enter .undefined) .und 0b11011#5 0x8004#32 0x4#32 false ∧
    Entered (st 0x60000010 [] []) ((st 0x60000010 [] []).enter .swi) .svc 0b10011#5 0x8004#32 0x8#32 false ∧
    Entered (st 0x60000010 [] []) ((st 0x60000010 [] []).enter .prefetchAbort) .abt 0b10111#5 0x8004#32 0xC#32 false ∧
    EnteredBesideMemory (st 0x60000010 [] []) ((st 0x60000010 [] []).enter .dataAbort) .abt 0b10111#5 0x8008#32 0x10#32
      false ∧
    Entered (st 0x60000010 [] []) ((st 0x60000010 [] []).enter .irq) .irq 0b10010#5 0x8004#32 0x18#32 false ∧
    Entered (st 0x60000010 [] []) ((st 0x60000010 [] []).enter .fiq) .fiq 0b10001#5 0x8004#32 0x1C#32 true ∧
    (bankOf 0b10010#5 = .irq ∧ wordAligned (0x8004#32 - (4#8).setWidth 32) = true) :=
  ⟨by decide, (st 0x60000010 [] []).enter_entered .undefined, (st 0x60000010 [] []).enter_entered .swi,
    (st 0x60000010 [] []).enter_entered .prefetchAbort, ((st 0x60000010 [] []).enter_entered .dataAbort).1,
    (st 0x60000010 [] []).enter_entered .irq, (st 0x60000010 [] []).enter_entered .fiq, by decide⟩

/-- A program of three words, all of them text, with two fetched ahead. -/
def textProgram : State :=
  ahead (on (st 0x10 [] [(0x8000, 0xE3A02002), (0x8004, 0xE3A03003), (0x8008, 7)]) fun p =>
    { p with text := [⟨0x8000, 12⟩] }) (0xE3A02002, 0xE3A03003)

/-- TextIsImmutable: no word of text fetched ahead is stale, and a step. -/
theorem witness_TextIsImmutable :
    TextFresh textProgram ∧ textWord textProgram 0x8000#32 = true ∧ textWord textProgram 0x8004#32 = true ∧
    (stepped textProgram).map (fun t => (t.pc, t.prefetched)) = some (0x8004#32, some (0xE3A03003#32, 7#32)) :=
  ⟨fun x h => by cases h; decide, by decide⟩

/-- StepKeepsInvariant and TextIsImmutable: a step from a state the invariant holds of, and an address of text. -/
theorem witness_every_step :
    (State.reset.withFetchWord 32 0xE3A01209).inv = true ∧
    (∃ t, Machine.step (State.reset.withFetchWord 32 0xE3A01209) = .next t) ∧
    (∃ t, Machine.step oddText = .next t) ∧ oddText.platform.isText 0x1001#32 = true :=
  ⟨by decide, ⟨_, rfl⟩, ⟨_, rfl⟩, by decide⟩

/-- UserModeIsConfined. -/
theorem witness_UserModeIsConfined :
    psrM (st 0x60000010 [] []).cpsr = 0b10000#5 ∧ ∃ t, Machine.exec (.swi .al 0#24) (st 0x60000010 [] []) = .next t :=
  ⟨by decide, ⟨_, rfl⟩⟩

/-- ModeChanges: MSR CPSR_c, #0xD0 in Supervisor mode leaves it for User mode. -/
theorem witness_ModeChanges :
    (stepped (st 0xD3 [] [(0x8000, 0xE321F0D0)])).map (fun t => psrM t.cpsr) = some 0b10000#5 ∧
    psrM (st 0xD3 [] [(0x8000, 0xE321F0D0)]).cpsr ≠ 0b10000#5 := by
  decide

end Sys2Proof.Tests
end

section
/-! PROOFS. The step where nothing comes before the fetch (60_exceptions.md R259): what it fetches, and what it runs. -/

namespace Sys2Proof.Machine

/-! ## Reaching the fetch -/

/-- Nothing that R259 puts before the fetch happens at a boundary that reaches it. -/
theorem reachesFetch_iff (s : State) :
    reachesFetch s = true ↔ s.ended = false ∧ s.lines.reset = false ∧ s.interrupt = none := by
  have hint : s.interrupt = none ↔ (s.lines.fiq && !psrF s.cpsr) = false ∧ (s.lines.irq && !psrI s.cpsr) = false := by
    unfold State.interrupt
    cases s.lines.fiq && !psrF s.cpsr <;> cases s.lines.irq && !psrI s.cpsr <;> simp
  simp only [reachesFetch, Bool.and_eq_true, Bool.not_eq_true', hint, and_assoc]

theorem State.fetch_of_fetchable {s : State} (h : fetchable s = true) : s.fetch = .word s.wordNow := by
  obtain ⟨habort, hmapped⟩ : s.platform.abortsAt .fetch s.pc 4 = false ∧ s.platform.mapped s.pc 4 = true := by
    simpa only [fetchable, Bool.and_eq_true, Bool.not_eq_true'] using h
  simp [State.fetch, habort, hmapped]

/-- The decoder reads the four bytes at the pc as the word the fetch reads there (R51). -/
theorem nextInstr_eq_decode (s : State) : nextInstr s = decode s.wordNow := by
  unfold nextInstr State.wordNow
  cases s.prefetched with
  | none => rfl
  | some x => rfl

theorem stepCore_of_fetch {s : State} {w : Word} (hs : reachesFetch s = true) (hf : s.fetch = .word w) :
    stepCore s = runWord w s.fetchAhead := by
  obtain ⟨hended, hreset, hint⟩ := (reachesFetch_iff s).mp hs
  simp [stepCore, hended, hreset, hint, hf]

theorem step_of_fetchable {s : State} (hs : reachesFetch s = true) (hf : fetchable s = true) :
    step s = tickOutcome (runWord s.wordNow s.fetchAhead) :=
  congrArg tickOutcome (stepCore_of_fetch hs (State.fetch_of_fetchable hf))

/-! ## Running the word -/

theorem runWord_of_decode {w : Word} {i : Instr} (h : decode w = .ok i) (s : State) :
    runWord w s = if tierRefused i s then .refused .tier2NotAdmitted else exec i s := by
  simp only [runWord, h]

theorem tierRefused_eq_true_iff (i : Instr) (s : State) :
    tierRefused i s = true ↔ s.platform.tier2 = .refuse ∧ i.isTier2 = true ∧ condPassed i.cond s.cpsr = true := by
  simp only [tierRefused, Bool.and_eq_true, decide_eq_true_eq, and_assoc]

/-- What TIER2 lets run: what is admitted, and what would do nothing (R7, R75; log 1). -/
theorem tierRefused_eq_false {i : Instr} {s : State} (h : admitted i s = true ∨ condPassed i.cond s.cpsr = false) :
    tierRefused i s = false := by
  refine Bool.eq_false_iff.mpr fun hr => ?_
  obtain ⟨htier, htwo, hcond⟩ := (tierRefused_eq_true_iff i s).mp hr
  rcases h with hadm | hfail
  · simp [admitted, htwo, htier] at hadm
  · simp [hcond] at hfail

@[simp] theorem tierRefused_fetchAhead (i : Instr) (s : State) : tierRefused i s.fetchAhead = tierRefused i s := rfl

theorem step_of_nextInstr {s : State} {i : Instr} (hs : reachesFetch s = true) (hf : fetchable s = true)
    (hi : nextInstr s = .ok i) :
    step s = if tierRefused i s then .refused .tier2NotAdmitted else tickOutcome (exec i s.fetchAhead) := by
  rw [step_of_fetchable hs hf, runWord_of_decode ((nextInstr_eq_decode s).symm.trans hi), tierRefused_fetchAhead,
    apply_ite tickOutcome]
  rfl

/-! ## What is fetched ahead, and the environment's move -/

theorem State.wordNext_of_none {s : State} (h : s.prefetched = none) :
    s.wordNext = s.mem.word s.platform.bigEndian (s.pc + 4) := by
  simp only [State.wordNext, h]

theorem State.wordNext_of_some {s : State} {x : Word × Word} (h : s.prefetched = some x) : s.wordNext = x.2 := by
  simp only [State.wordNext, h]

/-- The next boundary's levels are the first of the schedule; where it is used up the lines stay (log 12). -/
theorem State.tick_eq_headD (s : State) :
    s.tick = { s with lines := s.upcoming.headD s.lines, upcoming := s.upcoming.tail } := by
  unfold State.tick
  cases hu : s.upcoming with
  | nil => exact congrArg (fun rest => { s with upcoming := rest }) hu
  | cons l rest => rfl

/-- Settles O8: the step is `exec` on the state with the two words fetched, unless `tierRefused` holds. -/
theorem stepRunsDecodedInstruction : Obligations.StepRunsDecodedInstruction := by
  intro s i hs hf hi
  have hstep := step_of_nextInstr hs hf hi
  refine ⟨fun hrun => ?_, fun htwo htier hcond => ?_, ?_, State.tick_eq_headD⟩
  · rw [tierRefused_eq_false hrun, if_neg Bool.false_ne_true] at hstep
    rw [hstep]
    cases exec i s.fetchAhead <;> rfl
  · rwa [if_pos ((tierRefused_eq_true_iff i s).mpr ⟨htier, htwo, hcond⟩)] at hstep
  · exact ⟨s.wordNext, rfl, State.wordNext_of_none, fun _ => State.wordNext_of_some⟩

end Sys2Proof.Machine
end

section
/-! PROOFS. What a step that goes on has done (60_exceptions.md R259): one lemma for the word run, one for the step before
the environment moves on, one for the step. -/

namespace Sys2Proof.Machine

/-- A word that runs is that of an instruction, or of no row of the table. -/
theorem runWord_eq_next {w : Word} {s t : State} (h : runWord w s = .next t) :
    (∃ i, decode w = .ok i ∧ exec i s = .next t) ∨ ∃ c, decode w = .reserved c ∧ runReserved c s = .next t := by
  cases hd : decode w <;> simp only [runWord, hd, reduceCtorEq] at h
  case ok i =>
    by_cases ht : tierRefused i s = true
    · rw [if_pos ht] at h; cases h
    · rw [if_neg ht] at h; exact .inl ⟨i, rfl, h⟩
  case reserved c => exact .inr ⟨c, rfl, h⟩

/-- A step takes a reset, takes an interrupt, aborts the fetch, or runs the word fetched. -/
theorem stepCore_eq_next {s t : State} (h : stepCore s = .next t) :
    (s.lines.reset = true ∧ t = s.takeReset) ∨ (∃ e, s.interrupt = some e ∧ t = s.enter e) ∨
      (s.fetch = .abort ∧ t = s.enter .prefetchAbort) ∨ ∃ w, s.fetch = .word w ∧ runWord w s.fetchAhead = .next t := by
  unfold stepCore at h
  by_cases hended : s.ended = true
  · rw [if_pos hended] at h; cases h
  rw [if_neg hended] at h
  by_cases hreset : s.lines.reset = true
  · rw [if_pos hreset] at h
    exact .inl ⟨hreset, (Host.Outcome.next.inj h).symm⟩
  rw [if_neg hreset] at h
  cases hint : s.interrupt with
  | some e =>
    simp only [hint] at h
    exact .inr (.inl ⟨e, rfl, (Host.Outcome.next.inj h).symm⟩)
  | none =>
    cases hf : s.fetch <;> simp only [hint, hf, reduceCtorEq] at h
    case abort => exact .inr (.inr (.inl ⟨rfl, (Host.Outcome.next.inj h).symm⟩))
    case word w => exact .inr (.inr (.inr ⟨w, rfl, h⟩))

/-- After a step the environment has moved to the next boundary (log 12). -/
theorem step_eq_next {s t : State} (h : step s = .next t) : ∃ u, stepCore s = .next u ∧ t = u.tick := by
  unfold step at h
  cases hu : stepCore s <;> simp only [hu, tickOutcome, reduceCtorEq] at h
  case next u => exact ⟨u, rfl, (Host.Outcome.next.inj h).symm⟩

end Sys2Proof.Machine
end

section
/-! PROOFS. The invariant of the machine (10_state.md R26, R28, R33 to R36): what each operation on the state has to
supply for it, that every instruction keeps it, and that every step does. -/

namespace Sys2Proof.Machine

/-! ## The invariant by its parts -/

/-- What the invariant says of the CPSR: ARM state (R33), a mode (R34), reserved bits 0 (R35). -/
structure CpsrOk (p : Word) : Prop where
  arm : psrT p = false
  mode : (Mode.ofBits (psrM p)).isSome = true
  clean : psrClean p = true

theorem State.forall_spsrOf_iff (s : State) :
    (∀ b p, s.spsrOf b = some p → psrClean p = true) ↔
      psrClean s.spsrFiq = true ∧ psrClean s.spsrSvc = true ∧ psrClean s.spsrAbt = true ∧
        psrClean s.spsrIrq = true ∧ psrClean s.spsrUnd = true := by
  constructor
  · exact fun h => ⟨h .fiq _ rfl, h .svc _ rfl, h .abt _ rfl, h .irq _ rfl, h .und _ rfl⟩
  · rintro ⟨hfiq, hsvc, habt, hirq, hund⟩ b p h
    cases b <;> cases h <;> assumption

theorem State.inv_iff (s : State) :
    s.inv = true ↔ s.mem.wf = true ∧ wordAligned s.pc = true ∧ CpsrOk s.cpsr ∧
      ∀ b p, s.spsrOf b = some p → psrClean p = true := by
  have hcpsr : CpsrOk s.cpsr ↔
      psrT s.cpsr = false ∧ (Mode.ofBits (psrM s.cpsr)).isSome = true ∧ psrClean s.cpsr = true :=
    ⟨fun ⟨ht, hm, hc⟩ => ⟨ht, hm, hc⟩, fun ⟨ht, hm, hc⟩ => ⟨ht, hm, hc⟩⟩
  rw [State.forall_spsrOf_iff, hcpsr]
  simp only [State.inv, Bool.and_eq_true, Bool.not_eq_true', and_assoc]

/-- The invariant looks at memory, the pc, the CPSR and the SPSRs alone. -/
theorem State.inv_of_same {s t : State} (hs : s.inv = true) (hmem : t.mem = s.mem) (hpc : t.pc = s.pc)
    (hcpsr : t.cpsr = s.cpsr) (hspsr : SameSpsrs s t) : t.inv = true := by
  rw [State.inv_iff] at hs ⊢
  simpa only [hmem, hpc, hcpsr, hspsr _] using hs

/-! ## Aligned addresses and modes -/

theorem wordAligned_iff (a : Word) : wordAligned a = true ↔ a.toNat % 4 = 0 := by
  rw [wordAligned, beq_iff_eq, ← low_two_toNat]
  exact ⟨fun h => by rw [h]; rfl, fun h => BitVec.eq_of_toNat_eq h⟩

theorem wordAligned_add_four {a : Word} (h : wordAligned a = true) : wordAligned (a + 4) = true := by
  rw [wordAligned_iff] at h ⊢
  bv_omega

theorem Exn.wordAligned_vector (e : Exn) : wordAligned e.vector = true := by cases e <;> rfl

theorem Mode.ofBits_bits (m : Mode) : Mode.ofBits m.bits = some m := by cases m <;> rfl

/-! ## Status registers -/

theorem psrClean_iff (p : Word) : psrClean p = true ↔ ∀ i, 8 ≤ i → i < 28 → p.getLsbD i = false := by
  rw [psrClean, decide_eq_true_eq]
  constructor
  · intro h i hlo hhi
    have hbit := congrArg (BitVec.getLsbD · (i - 8)) h
    simpa [show i - 8 < 20 by omega, show 8 + (i - 8) = i by omega] using hbit
  · intro h
    apply BitVec.eq_of_getLsbD_eq
    intro i hi
    simpa [hi] using h (8 + i) (by omega) (by omega)

/-- Bits merged in under a mask that spares the reserved bits leave them 0 (R35, R142). -/
theorem psrClean_mergeBits {old mask : Word} (new : Word) (h : psrClean old = true) (hmask : psrClean mask = true) :
    psrClean (mergeBits old new mask) = true := by
  rw [psrClean_iff] at *
  intro i hlo hhi
  simp [getLsbD_mergeBits, h i hlo hhi, hmask i hlo hhi]

theorem psrClean_and {p q : Word} (h : psrClean q = true) : psrClean (p &&& q) = true := by
  rw [psrClean_iff] at *
  intro i hlo hhi
  simp [h i hlo hhi]

theorem cpsrOk_psrWithFlags {p : Word} (h : CpsrOk p) (f : Nzcv) : CpsrOk (psrWithFlags p f) := by
  obtain ⟨harm, hmode, hclean⟩ := h
  exact ⟨by simpa using harm, by simpa using hmode, by simpa using hclean⟩

theorem cpsrOk_entryPsr {p : Word} (h : CpsrOk p) (e : Exn) : CpsrOk (entryPsr e p) where
  arm := psrT_entryPsr e p
  mode := by rw [psrM_entryPsr, Mode.ofBits_bits]; rfl
  clean := by rw [psrClean_of_field (field_entryPsr e p)]; exact h.clean

theorem cpsrOk_resetPsr (n : Nat) : CpsrOk (resetPsr n) where
  arm := psrT_resetPsr n
  mode := by rw [psrM_resetPsr]; rfl
  clean := psrClean_resetPsr n

/-- The mask of an MSR to the CPSR covers the control byte whole or not at all (R142, R261). -/
theorem getLsbD_cpsrMask_low (s : State) (fields : BitVec 4) {i : Nat} (h : i < 8) :
    (cpsrMask s fields).getLsbD i = (cpsrMask s fields).getLsbD 0 := by
  have hlow : (0xFF000000#32).getLsbD i = false := by
    have key : ∀ k : Fin 8, (0xFF000000#32).getLsbD k.val = false := by decide
    exact key ⟨i, h⟩
  unfold cpsrMask
  split
  · simp [hlow]
  · rw [getLsbD_fieldMask _ _ (by omega), getLsbD_fieldMask _ _ (by omega), Nat.div_eq_of_lt h]

theorem field_cpsrMask_eq_zero_iff (s : State) (fields : BitVec 4) :
    field (cpsrMask s fields) 0 8 = 0#8 ↔ (cpsrMask s fields).getLsbD 0 = false := by
  constructor
  · intro h
    simpa using congrArg (BitVec.getLsbD · 0) h
  · intro h
    apply BitVec.eq_of_getLsbD_eq
    intro i hi
    rw [getLsbD_field, Nat.zero_add, getLsbD_cpsrMask_low s fields hi, h, Bool.and_false, BitVec.getLsbD_zero]

/-- The control byte is left out of the mask, or M is replaced by the operand's. -/
theorem psrM_msr (s : State) (fields : BitVec 4) (operand : Word) :
    psrM (mergeBits s.cpsr operand (cpsrMask s fields &&& 0xF00000DF#32)) =
      if field (cpsrMask s fields) 0 8 = 0#8 then psrM s.cpsr else psrM operand := by
  have hmask : ∀ i, i < 5 → (cpsrMask s fields &&& 0xF00000DF#32).getLsbD i = (cpsrMask s fields).getLsbD 0 := by
    intro i hi
    have key : ∀ k : Fin 5, (0xF00000DF#32).getLsbD k.val = true := by decide
    rw [BitVec.getLsbD_and, key ⟨i, hi⟩, Bool.and_true, getLsbD_cpsrMask_low s fields (by omega)]
  apply BitVec.eq_of_getLsbD_eq
  intro i hi
  by_cases hzero : field (cpsrMask s fields) 0 8 = 0#8
  · have hbit := (field_cpsrMask_eq_zero_iff s fields).mp hzero
    simp only [if_pos hzero, psrM, getLsbD_field, getLsbD_mergeBits, Nat.zero_add, hmask i hi, hbit,
      Bool.false_eq_true, if_false]
  · have hbit := Bool.eq_true_of_not_eq_false (mt (field_cpsrMask_eq_zero_iff s fields).mpr hzero)
    simp only [if_neg hzero, psrM, getLsbD_field, getLsbD_mergeBits, Nat.zero_add, hmask i hi, hbit, if_true]

theorem cpsrOk_msr {s : State} (h : CpsrOk s.cpsr) (fields : BitVec 4) (operand : Word)
    (hmode : field (cpsrMask s fields) 0 8 ≠ 0#8 → (Mode.ofBits (psrM operand)).isSome = true) :
    CpsrOk (mergeBits s.cpsr operand (cpsrMask s fields &&& 0xF00000DF#32)) where
  arm := by
    rw [psrT, getLsbD_mergeBits, BitVec.getLsbD_and, show (0xF00000DF#32).getLsbD 5 = false from rfl, Bool.and_false]
    exact h.arm
  mode := by
    rw [psrM_msr]
    split
    · exact h.mode
    · exact hmode ‹_›
  clean := psrClean_mergeBits operand h.clean (psrClean_and rfl)

/-! ## Operations on the state -/

section
variable {s : State} (hs : s.inv = true)
include hs

theorem State.cpsrOk_of_inv : CpsrOk s.cpsr := by
  obtain ⟨_, _, hcpsr, _⟩ := s.inv_iff.mp hs
  exact hcpsr

theorem State.wf_of_inv : s.mem.wf = true := by
  obtain ⟨hmem, _⟩ := s.inv_iff.mp hs
  exact hmem

theorem State.wordAligned_of_inv : wordAligned s.pc = true := by
  obtain ⟨_, hpc, _⟩ := s.inv_iff.mp hs
  exact hpc

theorem State.psrClean_spsr_of_inv {b : Bank} {p : Word} (h : s.spsrOf b = some p) : psrClean p = true := by
  obtain ⟨_, _, _, hspsr⟩ := s.inv_iff.mp hs
  exact hspsr b p h

theorem State.inv_setReg (r : Reg) (v : Word) : (s.setReg r v).inv = true :=
  State.inv_of_same hs rfl rfl rfl fun _ => rfl

theorem State.inv_drew (n : Nat) : (s.drew n).inv = true := State.inv_of_same hs rfl rfl rfl fun _ => rfl

theorem State.inv_fetchAhead : s.fetchAhead.inv = true := State.inv_of_same hs rfl rfl rfl fun _ => rfl

theorem State.inv_tick : s.tick.inv = true := by
  rw [State.tick_eq]
  exact State.inv_of_same hs rfl rfl rfl fun _ => rfl

theorem inv_writeBack (p w : Bool) (rn : Reg) (target : Word) : (writeBack s p w rn target).inv = true := by
  unfold writeBack
  split
  · exact State.inv_setReg hs rn target
  · exact hs

theorem inv_writeLoaded (user : Bool) (rs : List Reg) (vs : List Word) : (writeLoaded s user rs vs).inv = true := by
  obtain ⟨hpc, hcpsr, hmem, _, _, _, _, hspsr⟩ := writeLoaded_frame s user rs vs
  exact State.inv_of_same hs hmem hpc hcpsr hspsr

theorem State.inv_setMem {m : Memory} (hm : m.wf = true) : (s.setMem m).inv = true := by
  obtain ⟨_, hrest⟩ := s.inv_iff.mp hs
  exact (State.inv_iff _).mpr ⟨hm, hrest⟩

theorem State.inv_setPc {v : Word} (hv : wordAligned v = true) : (s.setPc v).inv = true := by
  obtain ⟨hmem, _, hrest⟩ := s.inv_iff.mp hs
  exact (State.inv_iff _).mpr ⟨hmem, hv, hrest⟩

theorem State.inv_jump {v : Word} (hv : wordAligned v = true) : (s.jump v).inv = true := by
  obtain ⟨hmem, _, hrest⟩ := s.inv_iff.mp hs
  exact (State.inv_iff _).mpr ⟨hmem, hv, hrest⟩

theorem State.inv_setCpsr {v : Word} (hv : CpsrOk v) : (s.setCpsr v).inv = true := by
  obtain ⟨hmem, hpc, _, hspsr⟩ := s.inv_iff.mp hs
  exact (State.inv_iff _).mpr ⟨hmem, hpc, hv, hspsr⟩

theorem State.inv_setFlags (f : Nzcv) : (s.setFlags f).inv = true :=
  State.inv_setCpsr hs (cpsrOk_psrWithFlags (State.cpsrOk_of_inv hs) f)

theorem State.inv_setSpsr (b : Bank) {v : Word} (hv : psrClean v = true) : (s.setSpsr b v).inv = true := by
  obtain ⟨hmem, hpc, hcpsr, hspsr⟩ := s.inv_iff.mp hs
  refine (State.inv_iff _).mpr ⟨by simpa using hmem, by simpa using hpc, by simpa using hcpsr, fun k p h => ?_⟩
  by_cases hk : k = b
  · subst hk
    cases k with
    | usr => exact hspsr .usr p h
    | fiq | svc | abt | irq | und => cases h; exact hv
  · rw [State.setSpsr_spsrOf_ne s b k v hk] at h
    exact hspsr k p h

/-- Taking an exception saves a clean CPSR and jumps to a vector (R243). -/
theorem State.inv_enter (e : Exn) : (s.enter e).inv = true := by
  have hcpsr := State.cpsrOk_of_inv hs
  have hlink : (s.setPhys (physReg e.bank 14#4) (s.pc + e.linkOffset)).inv = true :=
    State.inv_of_same hs rfl rfl rfl fun _ => rfl
  have hsaved := State.inv_setSpsr hlink e.bank hcpsr.clean
  exact State.inv_jump (State.inv_setCpsr hsaved (cpsrOk_entryPsr hcpsr e)) e.wordAligned_vector

/-- A reset event draws SPSRs whose reserved bits are 0 and memory in the canonical form (R280; log 13). -/
theorem State.inv_takeReset : s.takeReset.inv = true := by
  refine (State.inv_iff _).mpr ⟨Memory.wf_scramble (State.wf_of_inv hs) _ _, rfl, cpsrOk_resetPsr _, ?_⟩
  rw [State.forall_spsrOf_iff]
  exact ⟨psrClean_drawnSpsr _, psrClean_drawnSpsr _, psrClean_drawnSpsr _, psrClean_drawnSpsr _, psrClean_drawnSpsr _⟩

end

/-! ## Attempts -/

/-- What an attempt comes to: where it succeeds its value is as `P` says, and where an access is aborted the state in
which Data Abort is entered meets the invariant. -/
def Attempt.Ensures {α : Type} (x : Attempt α) (P : α → Prop) : Prop :=
  (∀ a, x = .ok a → P a) ∧ ∀ t, x = .abort t → t.inv = true

/-- Every state the attempt answers with meets the invariant. -/
def Attempt.KeepsInv (x : Attempt State) : Prop := x.Ensures fun t => t.inv = true

/-- A next state of the outcome meets the invariant. -/
def OutcomeKeepsInv (o : Host.Outcome State Fault Refusal) : Prop := ∀ t, o = .next t → t.inv = true

theorem Attempt.ensures_ok {α : Type} {P : α → Prop} {a : α} (h : P a) : (Attempt.ok a).Ensures P :=
  ⟨fun _ e => Attempt.ok.inj e ▸ h, fun _ e => nomatch e⟩

theorem Attempt.ensures_refused {α : Type} {P : α → Prop} (r : Refusal) : (Attempt.refused r).Ensures P :=
  ⟨fun _ e => (nomatch e), fun _ e => nomatch e⟩

theorem Attempt.ensures_andThen {α β : Type} {x : Attempt α} {k : α → Attempt β} {P : α → Prop} {Q : β → Prop}
    (hx : x.Ensures P) (hk : ∀ a, P a → (k a).Ensures Q) : (x.andThen k).Ensures Q := by
  obtain ⟨hok, habort⟩ := hx
  constructor
  · intro b e
    obtain ⟨a, ha, hb⟩ := Attempt.andThen_eq_ok.mp e
    exact (hk a (hok a ha)).1 b hb
  · intro t e
    rcases Attempt.andThen_eq_abort.mp e with h | ⟨a, ha, ht⟩
    · exact habort t h
    · exact (hk a (hok a ha)).2 t ht

/-- A check may be used by what runs behind it. -/
theorem ensures_require {α : Type} {b : Bool} {r : Refusal} {k : Attempt α} {P : α → Prop}
    (h : b = true → k.Ensures P) : (require b r k).Ensures P := by
  cases b with
  | false => exact Attempt.ensures_refused r
  | true => exact h rfl

/-- An attempt that reads only: where it aborts, the state is as it was. -/
theorem ensures_read {α : Type} {s : State} (hs : s.inv = true) {x : Attempt α} (h : ∀ t, x = .abort t → t = s) :
    x.Ensures fun _ => True :=
  ⟨fun _ _ => trivial, fun t e => h t e ▸ hs⟩

theorem Attempt.KeepsInv.outcome {x : Attempt State} (h : x.KeepsInv) : OutcomeKeepsInv x.outcome := by
  obtain ⟨hok, habort⟩ := h
  intro t e
  rcases Attempt.outcome_eq_next.mp e with hx | ⟨u, hx, rfl⟩
  · exact hok t hx
  · exact State.inv_enter (habort u hx) .dataAbort

section
variable {s : State} (hs : s.inv = true)
include hs

/-! ## The program counter and the exception return -/

theorem keepsInv_advance : s.advance.KeepsInv :=
  ensures_require fun _ =>
    Attempt.ensures_ok (State.inv_setPc hs (wordAligned_add_four (State.wordAligned_of_inv hs)))

theorem keepsInv_writePc (v : Word) : (s.writePc v).KeepsInv :=
  ensures_require fun hv => Attempt.ensures_ok (State.inv_jump hs hv)

theorem keepsInv_putReg (r : Reg) (v : Word) : (s.putReg r v).KeepsInv := by
  unfold State.putReg
  split
  · exact keepsInv_writePc hs v
  · exact keepsInv_advance (State.inv_setReg hs r v)

/-- A return restores a CPSR whose T and M are checked and whose reserved bits the SPSR has at 0 (R33 to R35, R255). -/
theorem keepsInv_exceptionReturn (target : Word) : (s.exceptionReturn target).KeepsInv := by
  refine ⟨fun t e => ?_, fun t e => absurd e State.exceptionReturn_ne_abort⟩
  obtain ⟨p, hp, hv, harm, hmode, rfl⟩ := State.exceptionReturn_eq_ok.mp e
  exact State.inv_setCpsr (State.inv_jump hs hv) ⟨harm, hmode, State.psrClean_spsr_of_inv hs hp⟩

theorem keepsInv_enter (e : Exn) : (Attempt.ok (s.enter e)).KeepsInv := Attempt.ensures_ok (State.inv_enter hs e)

theorem keepsInv_conditional (c : Cond) {body : Attempt State} (h : body.KeepsInv) :
    OutcomeKeepsInv (conditional c s body) := by
  unfold conditional
  split
  · exact h.outcome
  · exact (keepsInv_advance hs).outcome

/-! ## Loads and stores -/

theorem ensures_loadWord (a : Word) : (s.loadWord a).Ensures fun _ => True :=
  ensures_read hs fun _ e => (State.loadWord_eq_abort.mp e).2.2

theorem ensures_loadHalf (a : Word) : (s.loadHalf a).Ensures fun _ => True :=
  ensures_read hs fun _ e => (State.loadHalf_eq_abort.mp e).2.2

theorem ensures_loadByte (a : Word) : (s.loadByte a).Ensures fun _ => True :=
  ensures_read hs fun _ e => (State.loadByte_eq_abort.mp e).2

theorem ensures_halfUnsigned (a : Word) : (s.halfUnsigned a).Ensures fun _ => True :=
  Attempt.ensures_andThen (ensures_loadHalf hs a) fun _ _ => Attempt.ensures_ok trivial

theorem ensures_halfSigned (a : Word) : (s.halfSigned a).Ensures fun _ => True :=
  Attempt.ensures_andThen (ensures_loadHalf hs a) fun _ _ => Attempt.ensures_ok trivial

/-- A byte, zero-extended, as LDRB loads it (R156). -/
theorem ensures_byteUnsigned (a : Word) :
    ((s.loadByte a).andThen fun b => .ok (b.zeroExtend 32) : Attempt Word).Ensures fun _ => True :=
  Attempt.ensures_andThen (ensures_loadByte hs a) fun _ _ => Attempt.ensures_ok trivial

theorem ensures_byteSigned (a : Word) : (s.byteSigned a).Ensures fun _ => True :=
  Attempt.ensures_andThen (ensures_loadByte hs a) fun _ _ => Attempt.ensures_ok trivial

theorem ensures_wordAddress (a : Word) : (s.wordAddress a).Ensures fun _ => True :=
  ensures_read hs fun _ e => absurd e State.wordAddress_ne_abort

theorem ensures_loadWords (a : Word) (n : Nat) : (s.loadWords a n).Ensures fun _ => True :=
  ensures_read hs fun _ e => State.loadWords_eq_abort e

theorem keepsInv_storeAligned (a v : Word) : (s.storeAligned a v).KeepsInv := by
  constructor
  · intro t e
    obtain ⟨_, rfl⟩ := State.storeAligned_eq_ok.mp e
    exact State.inv_setMem hs (Memory.wf_setWord (State.wf_of_inv hs) _ _ _)
  · intro t e
    obtain ⟨_, rfl⟩ := State.storeAligned_eq_abort.mp e
    exact hs

theorem keepsInv_storeWord (a v : Word) : (s.storeWord a v).KeepsInv :=
  Attempt.ensures_andThen (ensures_wordAddress hs a) fun b _ => keepsInv_storeAligned hs b v

theorem keepsInv_storeHalf (a : Word) (v : Half) : (s.storeHalf a v).KeepsInv := by
  constructor
  · intro t e
    obtain ⟨_, _, rfl⟩ := State.storeHalf_eq_ok.mp e
    exact State.inv_setMem hs (Memory.wf_setHalf (State.wf_of_inv hs) _ _ _)
  · intro t e
    obtain ⟨_, _, rfl⟩ := State.storeHalf_eq_abort.mp e
    exact hs

theorem keepsInv_storeByte (a : Word) (v : Byte) : (s.storeByte a v).KeepsInv := by
  constructor
  · intro t e
    obtain ⟨_, rfl⟩ := State.storeByte_eq_ok.mp e
    exact State.inv_setMem hs (Memory.wf_write (State.wf_of_inv hs) _ _)
  · intro t e
    obtain ⟨_, rfl⟩ := State.storeByte_eq_abort.mp e
    exact hs

/-- A block store that is aborted on the way keeps the invariant with the words below written (R173, D25). -/
theorem keepsInv_storeWords (a : Word) (vs : List Word) : (s.storeWords a vs).KeepsInv := by
  induction vs generalizing s a with
  | nil => exact Attempt.ensures_ok hs
  | cons v rest ih => exact Attempt.ensures_andThen (keepsInv_storeAligned hs a v) fun t ht => ih ht (a + 4)

/-! ## The shared endings -/

theorem keepsInv_dpWrite (sb : Bool) (rd : Reg) (result : Word) (flags : Nzcv) :
    (dpWrite s sb rd result flags).KeepsInv := by
  have hrd := State.inv_setReg hs rd result
  cases hp : isPc rd <;> cases sb <;> simp only [dpWrite, hp, if_true, if_false, Bool.false_eq_true]
  case false.false => exact keepsInv_advance hrd
  case false.true => exact keepsInv_advance (State.inv_setFlags hrd flags)
  case true.false => exact keepsInv_writePc hs result
  case true.true => exact keepsInv_exceptionReturn hs result

theorem keepsInv_setFlags (f : Nzcv) : (s.setFlags f).advance.KeepsInv := keepsInv_advance (State.inv_setFlags hs f)

theorem keepsInv_finishMul (sb : Bool) (rd : Reg) (result : Word) : (finishMul s sb rd result).KeepsInv := by
  have hrd := State.inv_setReg hs rd result
  cases sb with
  | false => exact keepsInv_advance hrd
  | true => exact keepsInv_advance (State.inv_drew (State.inv_setFlags hrd _) 1)

theorem keepsInv_finishLong (sb : Bool) (rdHi rdLo : Reg) (result : BitVec 64) :
    (finishLong s sb rdHi rdLo result).KeepsInv := by
  have hpair := State.inv_setReg (State.inv_setReg hs rdLo (result.extractLsb' 0 32)) rdHi (result.extractLsb' 32 32)
  cases sb with
  | false => exact keepsInv_advance hpair
  | true => exact keepsInv_advance (State.inv_drew (State.inv_setFlags hpair _) 2)

theorem keepsInv_loadSingle (byte p u w : Bool) (rn rd : Reg) (offset : Word) :
    (loadSingle s byte p u w rn rd offset).KeepsInv := by
  have hend (v : Word) := keepsInv_putReg (inv_writeBack hs p w rn (transferTarget s u rn offset)) rd v
  cases byte with
  | false => exact Attempt.ensures_andThen (ensures_loadWord hs _) fun v _ => hend v
  | true => exact Attempt.ensures_andThen (ensures_byteUnsigned hs _) fun v _ => hend v

theorem keepsInv_storeSingle (byte p u w : Bool) (rn rd : Reg) (offset : Word) :
    (storeSingle s byte p u w rn rd offset).KeepsInv := by
  have hend (t : State) (ht : t.inv = true) :=
    keepsInv_advance (inv_writeBack ht p w rn (transferTarget s u rn offset))
  cases byte with
  | false => exact Attempt.ensures_andThen (keepsInv_storeWord hs _ _) hend
  | true => exact Attempt.ensures_andThen (keepsInv_storeByte hs _ _) hend

theorem keepsInv_loadExtended (p u w : Bool) (rn rd : Reg) (offset : Word) {datum : Word → Attempt Word}
    (hdatum : ∀ a, (datum a).Ensures fun _ => True) : (loadExtended s p u w rn rd offset datum).KeepsInv :=
  Attempt.ensures_andThen (hdatum _) fun v _ => keepsInv_putReg (inv_writeBack hs p w rn _) rd v

theorem keepsInv_storeHalfword (p u w : Bool) (rn rd : Reg) (offset : Word) :
    (storeHalfword s p u w rn rd offset).KeepsInv :=
  Attempt.ensures_andThen (keepsInv_storeHalf hs _ _) fun _ ht => keepsInv_advance (inv_writeBack ht p w rn _)

theorem keepsInv_swapWord (rn rd rm : Reg) : (swapWord s rn rd rm).KeepsInv :=
  Attempt.ensures_andThen (ensures_loadWord hs _) fun v _ =>
    Attempt.ensures_andThen (keepsInv_storeWord hs _ _) fun _ ht => keepsInv_advance (State.inv_setReg ht rd v)

theorem keepsInv_swapByte (rn rd rm : Reg) : (swapByte s rn rd rm).KeepsInv :=
  Attempt.ensures_andThen (ensures_loadByte hs _) fun _ _ =>
    Attempt.ensures_andThen (keepsInv_storeByte hs _ _) fun _ ht => keepsInv_advance (State.inv_setReg ht rd _)

theorem keepsInv_ldm (m : BlockMode) (sb w : Bool) (rn : Reg) (list : BitVec 16) :
    (ldm s m sb w rn list).KeepsInv := by
  refine Attempt.ensures_andThen (ensures_wordAddress hs _) fun base _ =>
    Attempt.ensures_andThen (ensures_loadWords hs _ _) fun vs _ => ?_
  have hbase : (if w then s.setReg rn (blockFinal m (s.reg rn) list) else s).inv = true := by
    cases w with
    | false => exact hs
    | true => exact State.inv_setReg hs rn _
  have hloaded := inv_writeLoaded hbase (usesUserBank true sb list) (regsOf list) vs
  cases hp : listHasPc list <;> cases sb <;> simp only [if_true, if_false, Bool.false_eq_true]
  case false.false | false.true => exact keepsInv_advance hloaded
  case true.false => exact keepsInv_writePc hloaded _
  case true.true => exact keepsInv_exceptionReturn hloaded _

theorem keepsInv_stm (m : BlockMode) (sb w : Bool) (rn : Reg) (list : BitVec 16) :
    (stm s m sb w rn list).KeepsInv := by
  refine Attempt.ensures_andThen (ensures_wordAddress hs _) fun base _ =>
    Attempt.ensures_andThen (keepsInv_storeWords hs _ _) fun t ht => ?_
  cases w with
  | false => exact keepsInv_advance ht
  | true => exact keepsInv_advance (State.inv_setReg ht rn _)

/-- MSR to the CPSR keeps T and the reserved bits, and where it writes M the value is a mode (R33 to R35, R142). -/
theorem keepsInv_writeCpsrFields (fields : BitVec 4) (operand : Word) :
    (writeCpsrFields s fields operand).KeepsInv := by
  have hcpsr := State.cpsrOk_of_inv hs
  by_cases hctl : field (cpsrMask s fields) 0 8 = 0#8
  · simp only [writeCpsrFields, hctl, if_true]
    exact Attempt.ensures_ok (State.inv_setCpsr hs (cpsrOk_msr hcpsr fields operand fun h => absurd hctl h))
  · simp only [writeCpsrFields, hctl, if_false]
    exact ensures_require fun _ => ensures_require fun hmode =>
      Attempt.ensures_ok (State.inv_setCpsr hs (cpsrOk_msr hcpsr fields operand fun _ => hmode))

theorem keepsInv_writeSpsrFields (fields : BitVec 4) (operand : Word) :
    (writeSpsrFields s fields operand).KeepsInv := by
  cases h : s.spsrOf s.bank with
  | none =>
    simp only [writeSpsrFields, h]
    exact Attempt.ensures_refused .noSpsr
  | some old =>
    have hclean := psrClean_mergeBits operand (State.psrClean_spsr_of_inv hs h)
      (psrClean_and (p := fieldMask fields) (q := psrImplemented) rfl)
    simp only [writeSpsrFields, h]
    exact Attempt.ensures_ok (State.inv_setSpsr hs s.bank hclean)

theorem ensures_readPsr (spsr : Bool) : (readPsr s spsr).Ensures fun _ => True :=
  ensures_read hs fun t e => by
    unfold readPsr at e
    cases spsr with
    | false => cases e
    | true => cases h : s.spsrOf s.bank <;> simp [h] at e

theorem keepsInv_msr (spsr : Bool) (fields : BitVec 4) (operand : Word) : (msr s spsr fields operand).KeepsInv := by
  cases spsr with
  | false => exact Attempt.ensures_andThen (keepsInv_writeCpsrFields hs fields operand) fun _ => keepsInv_advance
  | true => exact Attempt.ensures_andThen (keepsInv_writeSpsrFields hs fields operand) fun _ => keepsInv_advance

end

/-! ## Every instruction -/

/-- A refusal in front does not matter: a refused instruction has no next state. -/
theorem keepsInv_require {b : Bool} {r : Refusal} {k : Attempt State} (h : k.KeepsInv) : (require b r k).KeepsInv :=
  ensures_require fun _ => h

theorem keepsInv_checkedSingleImm {byte p w : Bool} {rn rd : Reg} {k : Attempt State} (h : k.KeepsInv) :
    (checkedSingleImm byte p w rn rd k).KeepsInv := keepsInv_require (keepsInv_require h)

theorem keepsInv_checkedSingleReg {byte p w : Bool} {rn rd rm : Reg} {k : Attempt State} (h : k.KeepsInv) :
    (checkedSingleReg byte p w rn rd rm k).KeepsInv := keepsInv_require (keepsInv_require h)

theorem keepsInv_checkedHalfImm {p w : Bool} {rn rd : Reg} {k : Attempt State} (h : k.KeepsInv) :
    (checkedHalfImm p w rn rd k).KeepsInv := keepsInv_require (keepsInv_require h)

theorem keepsInv_checkedHalfReg {p w : Bool} {rn rd rm : Reg} {k : Attempt State} (h : k.KeepsInv) :
    (checkedHalfReg p w rn rd rm k).KeepsInv := keepsInv_require (keepsInv_require h)

theorem keepsInv_checkedBlock {s : State} {load sb w : Bool} {rn : Reg} {list : BitVec 16} {k : Attempt State}
    (h : k.KeepsInv) : (checkedBlock s load sb w rn list k).KeepsInv :=
  keepsInv_require (keepsInv_require (keepsInv_require h))

/-- Every instruction keeps the invariant: it runs under its condition, and each ending does. -/
theorem keepsInv_exec {s : State} (hs : s.inv = true) (i : Instr) : OutcomeKeepsInv (exec i s) := by
  cases i with
  | andImm | eorImm | subImm | rsbImm | addImm | adcImm | sbcImm | rscImm | orrImm | movImm | bicImm | mvnImm
  | andShiftImm | eorShiftImm | subShiftImm | rsbShiftImm | addShiftImm | adcShiftImm | sbcShiftImm | rscShiftImm
  | orrShiftImm | movShiftImm | bicShiftImm | mvnShiftImm =>
    exact keepsInv_conditional hs _ (keepsInv_dpWrite hs _ _ _ _)
  | andShiftReg | eorShiftReg | subShiftReg | rsbShiftReg | addShiftReg | adcShiftReg | sbcShiftReg | rscShiftReg
  | orrShiftReg | movShiftReg | bicShiftReg | mvnShiftReg =>
    exact keepsInv_conditional hs _ (keepsInv_require (keepsInv_dpWrite hs _ _ _ _))
  | tstImm | teqImm | cmpImm | cmnImm | tstShiftImm | teqShiftImm | cmpShiftImm | cmnShiftImm =>
    exact keepsInv_conditional hs _ (keepsInv_setFlags hs _)
  | tstShiftReg | teqShiftReg | cmpShiftReg | cmnShiftReg =>
    exact keepsInv_conditional hs _ (keepsInv_require (keepsInv_setFlags hs _))
  | mrs _ _ rd =>
    exact keepsInv_conditional hs _ (keepsInv_require
      (Attempt.ensures_andThen (ensures_readPsr hs _) fun v _ => keepsInv_advance (State.inv_setReg hs rd v)))
  | msrReg => exact keepsInv_conditional hs _ (keepsInv_require (keepsInv_msr hs _ _ _))
  | msrImm => exact keepsInv_conditional hs _ (keepsInv_msr hs _ _ _)
  | mul | mla => exact keepsInv_conditional hs _ (keepsInv_require (keepsInv_finishMul hs _ _ _))
  | umull | umlal | smull | smlal =>
    exact keepsInv_conditional hs _ (keepsInv_require (keepsInv_finishLong hs _ _ _ _))
  | swp => exact keepsInv_conditional hs _ (keepsInv_require (keepsInv_swapWord hs _ _ _))
  | swpb => exact keepsInv_conditional hs _ (keepsInv_require (keepsInv_swapByte hs _ _ _))
  | bx => exact keepsInv_conditional hs _ (keepsInv_require (keepsInv_require (keepsInv_writePc hs _)))
  | b => exact keepsInv_conditional hs _ (keepsInv_writePc hs _)
  | bl => exact keepsInv_conditional hs _ (keepsInv_writePc (State.inv_setReg hs _ _) _)
  | ldrhReg =>
    exact keepsInv_conditional hs _ (keepsInv_checkedHalfReg
      (keepsInv_loadExtended hs _ _ _ _ _ _ (ensures_halfUnsigned hs)))
  | ldrhImm =>
    exact keepsInv_conditional hs _ (keepsInv_checkedHalfImm
      (keepsInv_loadExtended hs _ _ _ _ _ _ (ensures_halfUnsigned hs)))
  | ldrsbReg =>
    exact keepsInv_conditional hs _ (keepsInv_checkedHalfReg
      (keepsInv_loadExtended hs _ _ _ _ _ _ (ensures_byteSigned hs)))
  | ldrsbImm =>
    exact keepsInv_conditional hs _ (keepsInv_checkedHalfImm
      (keepsInv_loadExtended hs _ _ _ _ _ _ (ensures_byteSigned hs)))
  | ldrshReg =>
    exact keepsInv_conditional hs _ (keepsInv_checkedHalfReg
      (keepsInv_loadExtended hs _ _ _ _ _ _ (ensures_halfSigned hs)))
  | ldrshImm =>
    exact keepsInv_conditional hs _ (keepsInv_checkedHalfImm
      (keepsInv_loadExtended hs _ _ _ _ _ _ (ensures_halfSigned hs)))
  | strhReg => exact keepsInv_conditional hs _ (keepsInv_checkedHalfReg (keepsInv_storeHalfword hs _ _ _ _ _ _))
  | strhImm => exact keepsInv_conditional hs _ (keepsInv_checkedHalfImm (keepsInv_storeHalfword hs _ _ _ _ _ _))
  | ldrImm | ldrbImm =>
    exact keepsInv_conditional hs _ (keepsInv_checkedSingleImm (keepsInv_loadSingle hs _ _ _ _ _ _ _))
  | ldrReg | ldrbReg =>
    exact keepsInv_conditional hs _ (keepsInv_checkedSingleReg (keepsInv_loadSingle hs _ _ _ _ _ _ _))
  | strImm | strbImm =>
    exact keepsInv_conditional hs _ (keepsInv_checkedSingleImm (keepsInv_storeSingle hs _ _ _ _ _ _ _))
  | strReg | strbReg =>
    exact keepsInv_conditional hs _ (keepsInv_checkedSingleReg (keepsInv_storeSingle hs _ _ _ _ _ _ _))
  | ldmia | ldmib | ldmda | ldmdb =>
    exact keepsInv_conditional hs _ (keepsInv_checkedBlock (keepsInv_ldm hs _ _ _ _ _))
  | stmia | stmib | stmda | stmdb =>
    exact keepsInv_conditional hs _ (keepsInv_checkedBlock (keepsInv_stm hs _ _ _ _ _))
  | ldc | stc | cdp | mrc | mcr | swi | undefined => exact keepsInv_conditional hs _ (keepsInv_enter hs _)

/-! ## The step -/

theorem keepsInv_runReserved {s : State} (hs : s.inv = true) (c : Cond) : OutcomeKeepsInv (runReserved c s) := by
  refine keepsInv_conditional hs c ?_
  cases s.platform.reserved with
  | refuse => exact Attempt.ensures_refused .reservedWord
  | undefinedTrap => exact keepsInv_enter hs .undefined

theorem keepsInv_runWord {s : State} (hs : s.inv = true) (w : Word) : OutcomeKeepsInv (runWord w s) := by
  intro t h
  rcases runWord_eq_next h with ⟨i, _, hi⟩ | ⟨c, _, hc⟩
  · exact keepsInv_exec hs i t hi
  · exact keepsInv_runReserved hs c t hc

theorem keepsInv_stepCore {s : State} (hs : s.inv = true) : OutcomeKeepsInv (stepCore s) := by
  intro t h
  rcases stepCore_eq_next h with ⟨_, rfl⟩ | ⟨e, _, rfl⟩ | ⟨_, rfl⟩ | ⟨w, _, hw⟩
  · exact State.inv_takeReset hs
  · exact State.inv_enter hs e
  · exact State.inv_enter hs .prefetchAbort
  · exact keepsInv_runWord (State.inv_fetchAhead hs) w t hw

/-- Settles O57: a reset, an exception entry and every instruction keep the invariant, and the environment's move after
them does not touch what it speaks of. -/
theorem stepKeepsInvariant : Obligations.StepKeepsInvariant := by
  intro s t hs h
  obtain ⟨u, hu, rfl⟩ := step_eq_next h
  exact State.inv_tick (keepsInv_stepCore hs u hu)

/-- Settles O2: the memory after reset is empty, its pc and SPSRs are 0, and its CPSR is Supervisor mode in ARM state. -/
theorem resetMeetsInvariant : Obligations.ResetMeetsInvariant := by
  refine ⟨(State.inv_iff _).mpr ⟨Memory.wf_reset, rfl, ⟨rfl, rfl, rfl⟩, ?_⟩, rfl⟩
  exact (State.forall_spsrOf_iff _).mpr ⟨rfl, rfl, rfl, rfl, rfl⟩

end Sys2Proof.Machine
end

section
/-! PROOFS. The register banks (10_state.md R23): which names of which modes are one register, what a register written
leaves as it was, and the SPSR of each mode. -/

namespace Sys2Proof.Machine

/-! ## The names of a register (Figure 1-2) -/

/-- A column and a name under which Figure 1-2 lists the register. -/
def PhysReg.cell (p : PhysReg) : Bank × Reg :=
  match p with
  | .r0 => (.usr, 0) | .r1 => (.usr, 1) | .r2 => (.usr, 2) | .r3 => (.usr, 3) | .r4 => (.usr, 4) | .r5 => (.usr, 5)
  | .r6 => (.usr, 6) | .r7 => (.usr, 7) | .r8 => (.usr, 8) | .r9 => (.usr, 9) | .r10 => (.usr, 10)
  | .r11 => (.usr, 11) | .r12 => (.usr, 12) | .r13 => (.usr, 13) | .r14 => (.usr, 14)
  | .r8Fiq => (.fiq, 8) | .r9Fiq => (.fiq, 9) | .r10Fiq => (.fiq, 10) | .r11Fiq => (.fiq, 11) | .r12Fiq => (.fiq, 12)
  | .r13Fiq => (.fiq, 13) | .r14Fiq => (.fiq, 14) | .r13Svc => (.svc, 13) | .r14Svc => (.svc, 14)
  | .r13Abt => (.abt, 13) | .r14Abt => (.abt, 14) | .r13Irq => (.irq, 13) | .r14Irq => (.irq, 14)
  | .r13Und => (.und, 13) | .r14Und => (.und, 14)

theorem physReg_cell (p : PhysReg) : physReg p.cell.1 p.cell.2 = p := by cases p <;> rfl

theorem PhysReg.cell_ne_pc (p : PhysReg) : p.cell.2 ≠ 15#4 := by cases p <;> decide

/-- Whatever the mode, a register is listed under one number. -/
theorem cell_physReg_snd (b : Bank) {r : Reg} (h : r ≠ 15#4) : (physReg b r).cell.2 = r := by
  revert r
  cases b <;> decide

/-- R0 to R7 are the same in every column. -/
theorem physReg_low (a b : Bank) {r : Reg} (h : r.toNat ≤ 7) : physReg a r = physReg b r := by
  have shared : ∀ r : Reg, r.toNat ≤ 7 → physReg a r = physReg b r := by cases a <;> cases b <;> decide
  exact shared r h

/-- R8 to R12 have one copy for FIQ mode and one for all others. -/
theorem physReg_middle_iff (a b : Bank) {r : Reg} (hlo : ¬ r.toNat ≤ 7) (hhi : r.toNat ≤ 12) :
    physReg a r = physReg b r ↔ (a = .fiq ↔ b = .fiq) := by
  have two : ∀ r : Reg, ¬ r.toNat ≤ 7 → r.toNat ≤ 12 → (physReg a r = physReg b r ↔ (a = .fiq ↔ b = .fiq)) := by
    cases a <;> cases b <;> decide
  exact two r hlo hhi

/-- R13 and R14 have a copy for every column. -/
theorem physReg_high_iff (a b : Bank) {r : Reg} (hlo : ¬ r.toNat ≤ 12) (h15 : r ≠ 15#4) :
    physReg a r = physReg b r ↔ a = b := by
  have six : ∀ r : Reg, ¬ r.toNat ≤ 12 → r ≠ 15#4 → (physReg a r = physReg b r ↔ a = b) := by
    cases a <;> cases b <;> decide
  exact six r hlo h15

theorem physReg_bank_iff (a b : Bank) {r : Reg} (h15 : r ≠ 15#4) :
    physReg a r = physReg b r ↔ a = b ∨ r.toNat ≤ 7 ∨ (r.toNat ≤ 12 ∧ a ≠ .fiq ∧ b ≠ .fiq) := by
  by_cases hlow : r.toNat ≤ 7
  · simp [physReg_low a b hlow, hlow]
  by_cases hmid : r.toNat ≤ 12
  · rw [physReg_middle_iff a b hlow hmid]
    by_cases ha : a = .fiq <;> by_cases hb : b = .fiq <;> simp [ha, hb, hlow, hmid, eq_comm]
  · simp [physReg_high_iff a b hmid h15, hlow, hmid]

/-- Two names are one register where Figure 1-2 has them in one cell. -/
theorem physReg_eq_iff (a b : Bank) {x y : Reg} (hx : x ≠ 15#4) (hy : y ≠ 15#4) :
    physReg a x = physReg b y ↔ x = y ∧ (a = b ∨ x.toNat ≤ 7 ∨ (x.toNat ≤ 12 ∧ a ≠ .fiq ∧ b ≠ .fiq)) := by
  constructor
  · intro h
    have hnum : x = y := by rw [← cell_physReg_snd a hx, h, cell_physReg_snd b hy]
    subst hnum
    exact ⟨rfl, (physReg_bank_iff a b hx).mp h⟩
  · rintro ⟨rfl, h⟩
    exact (physReg_bank_iff a b hx).mpr h

/-! ## One register written -/

theorem State.reg_setReg_self (s : State) {r : Reg} (v : Word) (h : r ≠ 15#4) : (s.setReg r v).reg r = v := by
  rw [State.reg_of_ne _ h, State.setReg_bank, State.phys_setReg, if_pos rfl]

theorem sameBytes_setReg (s : State) (r : Reg) (v : Word) : SameBytes s (s.setReg r v) := fun _ => rfl

theorem onlyRegs_setSpsr (s : State) (b : Bank) (v : Word) : OnlyRegs s (s.setSpsr b v) [] := fun p _ =>
  State.setSpsr_phys s b v p

/-- Settles O14: Figure 1-2 as `physReg` has it, a register written by `setReg` and an SPSR by `setSpsr`. -/
theorem registerBanks : Obligations.RegisterBanks := by
  refine ⟨⟨rfl, rfl, rfl, rfl, rfl, rfl, rfl⟩, fun p => ?_, fun a b x y hx hy => ?_, fun s r v hr => ?_,
    fun s a b v ha => ?_⟩
  · exact ⟨p.cell.1, p.cell.2, p.cell_ne_pc, physReg_cell p⟩
  · exact physReg_eq_iff a b hx hy
  · exact ⟨rfl, s.reg_of_ne hr, s.reg_setReg_self v hr, frame_setReg s r v s.pc, rfl, rfl, rfl, sameBytes_setReg s r v⟩
  · exact ⟨rfl, s.setSpsr_spsrOf_self a v ha, s.setSpsr_spsrOf_ne a b v, s.setSpsr_cpsr a v, onlyRegs_setSpsr s a v⟩

end Sys2Proof.Machine
end

section
/-! PROOFS. Program text (20_memory.md R63): no store, no reset event and no exception entry changes a byte of it, so no
instruction and no step does, and what was fetched of it ahead stays as memory has it (10_state.md R41 (b), R42). -/

namespace Sys2Proof.Machine

/-! ## The text and the parameters kept -/

/-- `t` has the parameters of `s` and its program text, byte for byte. -/
structure TextKept (s t : State) : Prop where
  platform : t.platform = s.platform
  bytes : ∀ a, s.platform.isText a = true → t.mem.read a = s.mem.read a

theorem TextKept.refl (s : State) : TextKept s s := ⟨rfl, fun _ _ => rfl⟩

theorem TextKept.trans {s t u : State} (h : TextKept s t) (h' : TextKept t u) : TextKept s u where
  platform := h'.platform.trans h.platform
  bytes a ha := (h'.bytes a (h.platform ▸ ha)).trans (h.bytes a ha)

/-- Registers, the pc and the status registers have no part in it. -/
theorem TextKept.of_same {s t u : State} (h : TextKept s t) (hplatform : u.platform = t.platform)
    (hmem : u.mem = t.mem) : TextKept s u :=
  h.trans ⟨hplatform, fun a _ => congrArg (Memory.read · a) hmem⟩

theorem TextKept.enter {s t : State} (h : TextKept s t) (e : Exn) : TextKept s (t.enter e) :=
  h.of_same (t.enter_platform e) (t.enter_mem e)

theorem TextKept.setSpsr {s t : State} (h : TextKept s t) (b : Bank) (v : Word) : TextKept s (t.setSpsr b v) :=
  h.of_same (t.setSpsr_platform b v) (t.setSpsr_mem b v)

theorem TextKept.writeBack {s t : State} (h : TextKept s t) (p w : Bool) (rn : Reg) (target : Word) :
    TextKept s (writeBack t p w rn target) := by
  unfold Machine.writeBack
  split
  · exact h.of_same rfl rfl
  · exact h

theorem TextKept.writeLoaded {s t : State} (h : TextKept s t) (user : Bool) (rs : List Reg) (vs : List Word) :
    TextKept s (writeLoaded t user rs vs) := by
  obtain ⟨_, _, hmem, _, _, hplatform, _⟩ := writeLoaded_frame t user rs vs
  exact h.of_same hplatform hmem

/-- A reset event draws the bytes outside program text alone (R63; log 13). -/
theorem TextKept.takeReset (s : State) : TextKept s s.takeReset where
  platform := by simp only [State.takeReset]
  bytes := Memory.read_scramble_text s.mem s.platform (Config.freeCells s.draws)

theorem TextKept.tick {s t : State} (h : TextKept s t) : TextKept s t.tick := by
  rw [t.tick_eq]
  exact h.of_same rfl rfl

/-- A write that goes ahead meets no program text, so none of it changes (R63, D12). -/
theorem TextKept.store {s : State} {a : Word} {n : Nat} {m : Memory} (h : writable s a n = true)
    (hout : ∀ b, b ∉ addrBytes a n → m.read b = s.mem.read b) : TextKept s (s.setMem m) := by
  refine ⟨rfl, fun b hb => hout b fun hmem => ?_⟩
  simp only [writable, Bool.and_eq_true, Bool.not_eq_true', Platform.inText, List.any_eq_false] at h
  exact h.2 b hmem hb

/-! ## Attempts -/

/-- What an attempt comes to: where it succeeds its value is as `P` says, and where an access is aborted the state in
which Data Abort is entered is as `R` says. -/
def Attempt.EndsIn {α : Type} (x : Attempt α) (P : α → Prop) (R : State → Prop) : Prop :=
  (∀ a, x = .ok a → P a) ∧ ∀ t, x = .abort t → R t

section
variable {α β : Type} {P : α → Prop} {Q : β → Prop} {R : State → Prop}

theorem Attempt.endsIn_ok {a : α} (h : P a) : (Attempt.ok a).EndsIn P R :=
  ⟨fun _ e => Attempt.ok.inj e ▸ h, fun _ e => nomatch e⟩

theorem Attempt.endsIn_refused (r : Refusal) : (Attempt.refused r).EndsIn P R :=
  ⟨fun _ e => (nomatch e), fun _ e => nomatch e⟩

theorem Attempt.endsIn_andThen {x : Attempt α} {k : α → Attempt β} (hx : x.EndsIn P R)
    (hk : ∀ a, P a → (k a).EndsIn Q R) : (x.andThen k).EndsIn Q R := by
  obtain ⟨hok, habort⟩ := hx
  constructor
  · intro b e
    obtain ⟨a, ha, hb⟩ := Attempt.andThen_eq_ok.mp e
    exact (hk a (hok a ha)).1 b hb
  · intro t e
    rcases Attempt.andThen_eq_abort.mp e with h | ⟨a, ha, ht⟩
    · exact habort t h
    · exact (hk a (hok a ha)).2 t ht

/-- A refused attempt answers with no state, so a check in front does not matter. -/
theorem endsIn_require {b : Bool} {r : Refusal} {k : Attempt α} (h : k.EndsIn P R) : (require b r k).EndsIn P R :=
  ⟨fun a e => h.1 a (require_eq_ok.mp e).2, fun t e => h.2 t (require_eq_abort.mp e).2⟩

end

/-- Every state the attempt answers with has the text of `s`. -/
def Attempt.KeepsText (s : State) (x : Attempt State) : Prop := x.EndsIn (TextKept s) (TextKept s)

/-- The attempt leaves memory alone: where it aborts, the state is `s`. -/
def Attempt.OnlyReads {α : Type} (s : State) (x : Attempt α) : Prop := ∀ t, x = .abort t → t = s

/-- A next state of the outcome has the text of `s`. -/
def OutcomeKeepsText (s : State) (o : Host.Outcome State Fault Refusal) : Prop := ∀ t, o = .next t → TextKept s t

theorem Attempt.KeepsText.outcome {s : State} {x : Attempt State} (h : x.KeepsText s) :
    OutcomeKeepsText s x.outcome := by
  obtain ⟨hok, habort⟩ := h
  intro t e
  rcases Attempt.outcome_eq_next.mp e with hx | ⟨u, hx, rfl⟩
  · exact hok t hx
  · exact (habort u hx).enter .dataAbort

theorem keepsText_andThen {α : Type} {s : State} {x : Attempt α} {k : α → Attempt State} (hx : x.OnlyReads s)
    (hk : ∀ a, (k a).KeepsText s) : (x.andThen k).KeepsText s :=
  Attempt.endsIn_andThen (P := fun _ => True) ⟨fun _ _ => trivial, fun t e => hx t e ▸ TextKept.refl s⟩
    fun a _ => hk a

theorem onlyReads_map {α β : Type} {s : State} {x : Attempt α} (f : α → β) (h : x.OnlyReads s) :
    (x.andThen fun a => .ok (f a) : Attempt β).OnlyReads s := fun t e => by
  rcases Attempt.andThen_eq_abort.mp e with hx | ⟨a, _, ha⟩
  · exact h t hx
  · cases ha

/-! ## The endings of an instruction -/

section
variable {s u : State} (hu : TextKept s u)
include hu

theorem keepsText_advance : u.advance.KeepsText s :=
  endsIn_require (Attempt.endsIn_ok (hu.of_same rfl rfl))

theorem keepsText_writePc (v : Word) : (u.writePc v).KeepsText s :=
  endsIn_require (Attempt.endsIn_ok (hu.of_same rfl rfl))

theorem keepsText_putReg (r : Reg) (v : Word) : (u.putReg r v).KeepsText s := by
  unfold State.putReg
  split
  · exact keepsText_writePc hu v
  · exact keepsText_advance (hu.of_same rfl rfl)

theorem keepsText_exceptionReturn (target : Word) : (u.exceptionReturn target).KeepsText s := by
  refine ⟨fun t e => ?_, fun t e => absurd e State.exceptionReturn_ne_abort⟩
  obtain ⟨p, _, _, _, _, rfl⟩ := State.exceptionReturn_eq_ok.mp e
  exact hu.of_same rfl rfl

end

theorem keepsText_enter (s : State) (e : Exn) : (Attempt.ok (s.enter e)).KeepsText s :=
  Attempt.endsIn_ok ((TextKept.refl s).enter e)

theorem keepsText_conditional (c : Cond) {s : State} {body : Attempt State} (h : body.KeepsText s) :
    OutcomeKeepsText s (conditional c s body) := by
  unfold conditional
  split
  · exact h.outcome
  · exact (keepsText_advance (TextKept.refl s)).outcome

theorem keepsText_dpWrite (s : State) (sb : Bool) (rd : Reg) (result : Word) (flags : Nzcv) :
    (dpWrite s sb rd result flags).KeepsText s := by
  have hs := TextKept.refl s
  cases hp : isPc rd <;> cases sb <;> simp only [dpWrite, hp, if_true, if_false, Bool.false_eq_true]
  case false.false | false.true => exact keepsText_advance (hs.of_same rfl rfl)
  case true.false => exact keepsText_writePc hs result
  case true.true => exact keepsText_exceptionReturn hs result

theorem keepsText_setFlags (s : State) (f : Nzcv) : (s.setFlags f).advance.KeepsText s :=
  keepsText_advance ((TextKept.refl s).of_same rfl rfl)

theorem keepsText_finishMul (s : State) (sb : Bool) (rd : Reg) (result : Word) :
    (finishMul s sb rd result).KeepsText s := by
  cases sb <;> exact keepsText_advance ((TextKept.refl s).of_same rfl rfl)

theorem keepsText_finishLong (s : State) (sb : Bool) (rdHi rdLo : Reg) (result : BitVec 64) :
    (finishLong s sb rdHi rdLo result).KeepsText s := by
  cases sb <;> exact keepsText_advance ((TextKept.refl s).of_same rfl rfl)

theorem onlyReads_readPsr (s : State) (spsr : Bool) : (readPsr s spsr).OnlyReads s := fun t e => by
  unfold readPsr at e
  cases spsr with
  | false => cases e
  | true => cases h : s.spsrOf s.bank <;> simp [h] at e

theorem keepsText_writeCpsrFields (s : State) (fields : BitVec 4) (operand : Word) :
    (writeCpsrFields s fields operand).KeepsText s := by
  have hwritten (v : Word) : (Attempt.ok (s.setCpsr v)).KeepsText s :=
    Attempt.endsIn_ok ((TextKept.refl s).of_same rfl rfl)
  by_cases hctl : field (cpsrMask s fields) 0 8 = 0#8 <;> simp only [writeCpsrFields, hctl, if_true, if_false]
  · exact hwritten _
  · exact endsIn_require (endsIn_require (hwritten _))

theorem keepsText_writeSpsrFields (s : State) (fields : BitVec 4) (operand : Word) :
    (writeSpsrFields s fields operand).KeepsText s := by
  cases h : s.spsrOf s.bank <;> simp only [writeSpsrFields, h]
  case none => exact Attempt.endsIn_refused .noSpsr
  case some => exact Attempt.endsIn_ok ((TextKept.refl s).setSpsr s.bank _)

theorem keepsText_msr (s : State) (spsr : Bool) (fields : BitVec 4) (operand : Word) :
    (msr s spsr fields operand).KeepsText s := by
  cases spsr with
  | false => exact Attempt.endsIn_andThen (keepsText_writeCpsrFields s fields operand) fun _ => keepsText_advance
  | true => exact Attempt.endsIn_andThen (keepsText_writeSpsrFields s fields operand) fun _ => keepsText_advance

/-! ## Loads and stores -/

theorem onlyReads_loadWord (s : State) (a : Word) : (s.loadWord a).OnlyReads s := fun _ e =>
  (State.loadWord_eq_abort.mp e).2.2

theorem onlyReads_loadHalf (s : State) (a : Word) : (s.loadHalf a).OnlyReads s := fun _ e =>
  (State.loadHalf_eq_abort.mp e).2.2

theorem onlyReads_loadByte (s : State) (a : Word) : (s.loadByte a).OnlyReads s := fun _ e =>
  (State.loadByte_eq_abort.mp e).2

theorem onlyReads_wordAddress (s : State) (a : Word) : (s.wordAddress a).OnlyReads s := fun _ e =>
  absurd e State.wordAddress_ne_abort

theorem onlyReads_loadWords (s : State) (a : Word) (n : Nat) : (s.loadWords a n).OnlyReads s := fun _ e =>
  State.loadWords_eq_abort e

theorem keepsText_storeAligned (s : State) (a v : Word) : (s.storeAligned a v).KeepsText s := by
  constructor
  · intro t e
    obtain ⟨hw, rfl⟩ := State.storeAligned_eq_ok.mp e
    exact .store hw fun b => Memory.read_setWord_outside s.mem _ a v b
  · intro t e
    obtain ⟨_, rfl⟩ := State.storeAligned_eq_abort.mp e
    exact .refl t

theorem keepsText_storeWord (s : State) (a v : Word) : (s.storeWord a v).KeepsText s :=
  keepsText_andThen (onlyReads_wordAddress s a) fun b => keepsText_storeAligned s b v

theorem keepsText_storeHalf (s : State) (a : Word) (v : Half) : (s.storeHalf a v).KeepsText s := by
  constructor
  · intro t e
    obtain ⟨_, hw, rfl⟩ := State.storeHalf_eq_ok.mp e
    exact .store hw fun b => Memory.read_setHalf_outside s.mem _ a b v
  · intro t e
    obtain ⟨_, _, rfl⟩ := State.storeHalf_eq_abort.mp e
    exact .refl t

theorem keepsText_storeByte (s : State) (a : Word) (v : Byte) : (s.storeByte a v).KeepsText s := by
  constructor
  · intro t e
    obtain ⟨hw, rfl⟩ := State.storeByte_eq_ok.mp e
    exact .store hw fun b => Memory.read_writeBytes_outside s.mem a b [v]
  · intro t e
    obtain ⟨_, rfl⟩ := State.storeByte_eq_abort.mp e
    exact .refl t

/-- A block store keeps program text also where it is aborted on the way, with the words below written (R173, D25). -/
theorem keepsText_storeWords {s u : State} (hu : TextKept s u) (a : Word) (vs : List Word) :
    (u.storeWords a vs).KeepsText s := by
  induction vs generalizing u a with
  | nil => exact Attempt.endsIn_ok hu
  | cons v rest ih =>
    obtain ⟨hok, habort⟩ := keepsText_storeAligned u a v
    exact Attempt.endsIn_andThen (P := TextKept s) ⟨fun t e => hu.trans (hok t e), fun t e => hu.trans (habort t e)⟩
      fun t ht => ih ht (a + 4)

/-! ## Transfers -/

theorem keepsText_loadEnd (s : State) (p w : Bool) (rn rd : Reg) (target v : Word) :
    ((writeBack s p w rn target).putReg rd v).KeepsText s :=
  keepsText_putReg ((TextKept.refl s).writeBack p w rn target) rd v

theorem keepsText_loadSingle (s : State) (byte p u w : Bool) (rn rd : Reg) (offset : Word) :
    (loadSingle s byte p u w rn rd offset).KeepsText s := by
  cases byte with
  | false => exact keepsText_andThen (onlyReads_loadWord s _) (keepsText_loadEnd s p w rn rd _)
  | true => exact keepsText_andThen (onlyReads_map _ (onlyReads_loadByte s _)) (keepsText_loadEnd s p w rn rd _)

theorem keepsText_storeSingle (s : State) (byte p u w : Bool) (rn rd : Reg) (offset : Word) :
    (storeSingle s byte p u w rn rd offset).KeepsText s := by
  have hend (t : State) (ht : TextKept s t) :=
    keepsText_advance (ht.writeBack p w rn (transferTarget s u rn offset))
  cases byte with
  | false => exact Attempt.endsIn_andThen (keepsText_storeWord s _ _) hend
  | true => exact Attempt.endsIn_andThen (keepsText_storeByte s _ _) hend

theorem keepsText_loadExtended {s : State} (p u w : Bool) (rn rd : Reg) (offset : Word)
    {datum : Word → Attempt Word} (hdatum : ∀ a, (datum a).OnlyReads s) :
    (loadExtended s p u w rn rd offset datum).KeepsText s :=
  keepsText_andThen (hdatum _) (keepsText_loadEnd s p w rn rd _)

theorem onlyReads_halfUnsigned (s : State) (a : Word) : (s.halfUnsigned a).OnlyReads s :=
  onlyReads_map _ (onlyReads_loadHalf s a)

theorem onlyReads_halfSigned (s : State) (a : Word) : (s.halfSigned a).OnlyReads s :=
  onlyReads_map _ (onlyReads_loadHalf s a)

theorem onlyReads_byteSigned (s : State) (a : Word) : (s.byteSigned a).OnlyReads s :=
  onlyReads_map _ (onlyReads_loadByte s a)

theorem keepsText_storeHalfword (s : State) (p u w : Bool) (rn rd : Reg) (offset : Word) :
    (storeHalfword s p u w rn rd offset).KeepsText s :=
  Attempt.endsIn_andThen (keepsText_storeHalf s _ _) fun _ ht => keepsText_advance (ht.writeBack p w rn _)

theorem keepsText_swapWord (s : State) (rn rd rm : Reg) : (swapWord s rn rd rm).KeepsText s :=
  keepsText_andThen (onlyReads_loadWord s _) fun _ =>
    Attempt.endsIn_andThen (keepsText_storeWord s _ _) fun _ ht => keepsText_advance (ht.of_same rfl rfl)

theorem keepsText_swapByte (s : State) (rn rd rm : Reg) : (swapByte s rn rd rm).KeepsText s :=
  keepsText_andThen (onlyReads_loadByte s _) fun _ =>
    Attempt.endsIn_andThen (keepsText_storeByte s _ _) fun _ ht => keepsText_advance (ht.of_same rfl rfl)

theorem keepsText_ldm (s : State) (m : BlockMode) (sb w : Bool) (rn : Reg) (list : BitVec 16) :
    (ldm s m sb w rn list).KeepsText s := by
  refine keepsText_andThen (onlyReads_wordAddress s _) fun base =>
    keepsText_andThen (onlyReads_loadWords s _ _) fun vs => ?_
  have hbase : TextKept s (if w then s.setReg rn (blockFinal m (s.reg rn) list) else s) := by
    cases w <;> exact (TextKept.refl s).of_same rfl rfl
  have hloaded := hbase.writeLoaded (usesUserBank true sb list) (regsOf list) vs
  cases hp : listHasPc list <;> cases sb <;> simp only [if_true, if_false, Bool.false_eq_true]
  case false.false | false.true => exact keepsText_advance hloaded
  case true.false => exact keepsText_writePc hloaded _
  case true.true => exact keepsText_exceptionReturn hloaded _

theorem keepsText_stm (s : State) (m : BlockMode) (sb w : Bool) (rn : Reg) (list : BitVec 16) :
    (stm s m sb w rn list).KeepsText s :=
  keepsText_andThen (onlyReads_wordAddress s _) fun base =>
    Attempt.endsIn_andThen (keepsText_storeWords (.refl s) _ _) fun t ht => by
      cases w <;> exact keepsText_advance (ht.of_same rfl rfl)

/-! ## Every instruction -/

/-- No instruction writes program text: those that store do it through a store, and no other touches memory. -/
theorem keepsText_exec (i : Instr) (s : State) : OutcomeKeepsText s (exec i s) := by
  have hs := TextKept.refl s
  cases i with
  | andImm | eorImm | subImm | rsbImm | addImm | adcImm | sbcImm | rscImm | orrImm | movImm | bicImm | mvnImm
  | andShiftImm | eorShiftImm | subShiftImm | rsbShiftImm | addShiftImm | adcShiftImm | sbcShiftImm | rscShiftImm
  | orrShiftImm | movShiftImm | bicShiftImm | mvnShiftImm =>
    exact keepsText_conditional _ (keepsText_dpWrite s _ _ _ _)
  | andShiftReg | eorShiftReg | subShiftReg | rsbShiftReg | addShiftReg | adcShiftReg | sbcShiftReg | rscShiftReg
  | orrShiftReg | movShiftReg | bicShiftReg | mvnShiftReg =>
    exact keepsText_conditional _ (endsIn_require (keepsText_dpWrite s _ _ _ _))
  | tstImm | teqImm | cmpImm | cmnImm | tstShiftImm | teqShiftImm | cmpShiftImm | cmnShiftImm =>
    exact keepsText_conditional _ (keepsText_setFlags s _)
  | tstShiftReg | teqShiftReg | cmpShiftReg | cmnShiftReg =>
    exact keepsText_conditional _ (endsIn_require (keepsText_setFlags s _))
  | mrs =>
    exact keepsText_conditional _ (endsIn_require
      (keepsText_andThen (onlyReads_readPsr s _) fun _ => keepsText_advance (hs.of_same rfl rfl)))
  | msrReg => exact keepsText_conditional _ (endsIn_require (keepsText_msr s _ _ _))
  | msrImm => exact keepsText_conditional _ (keepsText_msr s _ _ _)
  | mul | mla => exact keepsText_conditional _ (endsIn_require (keepsText_finishMul s _ _ _))
  | umull | umlal | smull | smlal => exact keepsText_conditional _ (endsIn_require (keepsText_finishLong s _ _ _ _))
  | swp => exact keepsText_conditional _ (endsIn_require (keepsText_swapWord s _ _ _))
  | swpb => exact keepsText_conditional _ (endsIn_require (keepsText_swapByte s _ _ _))
  | bx => exact keepsText_conditional _ (endsIn_require (endsIn_require (keepsText_writePc hs _)))
  | b => exact keepsText_conditional _ (keepsText_writePc hs _)
  | bl => exact keepsText_conditional _ (keepsText_writePc (hs.of_same (u := s.setReg _ _) rfl rfl) _)
  | ldrhReg | ldrhImm =>
    exact keepsText_conditional _
      (endsIn_require (endsIn_require (keepsText_loadExtended _ _ _ _ _ _ (onlyReads_halfUnsigned s))))
  | ldrsbReg | ldrsbImm =>
    exact keepsText_conditional _
      (endsIn_require (endsIn_require (keepsText_loadExtended _ _ _ _ _ _ (onlyReads_byteSigned s))))
  | ldrshReg | ldrshImm =>
    exact keepsText_conditional _
      (endsIn_require (endsIn_require (keepsText_loadExtended _ _ _ _ _ _ (onlyReads_halfSigned s))))
  | strhReg | strhImm =>
    exact keepsText_conditional _ (endsIn_require (endsIn_require (keepsText_storeHalfword s _ _ _ _ _ _)))
  | ldrImm | ldrbImm | ldrReg | ldrbReg =>
    exact keepsText_conditional _ (endsIn_require (endsIn_require (keepsText_loadSingle s _ _ _ _ _ _ _)))
  | strImm | strbImm | strReg | strbReg =>
    exact keepsText_conditional _ (endsIn_require (endsIn_require (keepsText_storeSingle s _ _ _ _ _ _ _)))
  | ldmia | ldmib | ldmda | ldmdb =>
    exact keepsText_conditional _ (endsIn_require (endsIn_require (endsIn_require (keepsText_ldm s _ _ _ _ _))))
  | stmia | stmib | stmda | stmdb =>
    exact keepsText_conditional _ (endsIn_require (endsIn_require (endsIn_require (keepsText_stm s _ _ _ _ _))))
  | ldc | stc | cdp | mrc | mcr | swi | undefined => exact keepsText_conditional _ (keepsText_enter s _)

/-! ## The step -/

theorem keepsText_runReserved (c : Cond) (s : State) : OutcomeKeepsText s (runReserved c s) := by
  refine keepsText_conditional c ?_
  cases s.platform.reserved with
  | refuse => exact Attempt.endsIn_refused .reservedWord
  | undefinedTrap => exact keepsText_enter s .undefined

theorem keepsText_runWord (w : Word) (s : State) : OutcomeKeepsText s (runWord w s) := by
  intro t h
  rcases runWord_eq_next h with ⟨i, _, hi⟩ | ⟨c, _, hc⟩
  · exact keepsText_exec i s t hi
  · exact keepsText_runReserved c s t hc

theorem keepsText_stepCore (s : State) : OutcomeKeepsText s (stepCore s) := by
  have hs := TextKept.refl s
  intro t h
  rcases stepCore_eq_next h with ⟨_, rfl⟩ | ⟨e, _, rfl⟩ | ⟨_, rfl⟩ | ⟨w, _, hw⟩
  · exact .takeReset s
  · exact hs.enter e
  · exact hs.enter .prefetchAbort
  · exact (hs.of_same (u := s.fetchAhead) rfl rfl).trans (keepsText_runWord w s.fetchAhead t hw)

/-! ## The words fetched ahead (R41 (b), R63, R288) -/

/-- A word that is program text reads as before where the text is kept. -/
theorem TextKept.word_eq {s t : State} (h : TextKept s t) {a : Word} (ha : textWord s a = true) :
    t.mem.word t.platform.bigEndian a = s.mem.word s.platform.bigEndian a := by
  rw [h.platform]
  exact Memory.word_congr fun b hb => h.bytes b (List.all_eq_true.mp ha b hb)

/-- The word after the one that runs is as memory has it, where it is program text and not stale. -/
theorem TextFresh.wordNext {s : State} (h : TextFresh s) (ha : textWord s (s.pc + 4) = true) :
    s.wordNext = s.mem.word s.platform.bigEndian (s.pc + 4) := by
  cases hp : s.prefetched with
  | none => exact State.wordNext_of_none hp
  | some x =>
    obtain ⟨_, hnext⟩ := h x hp
    exact (State.wordNext_of_some hp).trans (hnext ha)

/-- Where the text is kept, words fetched before the effect and kept by it are not stale after it. -/
theorem TextFresh.of_kept {s t : State} (hs : TextFresh s) (ht : TextKept s t)
    (hahead : t.prefetched = none ∨ (t.pc = s.pc + 4 ∧ t.prefetched = s.fetchAhead.prefetched)) : TextFresh t := by
  intro x hx
  rcases hahead with hnone | ⟨hpc, hpair⟩
  · rw [hnone] at hx; cases hx
  · have hwords : (s.wordNext, s.mem.word s.platform.bigEndian (s.pc + 8)) = x :=
      Option.some.inj (hpair.symm.trans hx)
    have htext : textWord t = textWord s := funext fun a => by rw [textWord, textWord, ht.platform]
    have hpc8 : t.pc + 4 = s.pc + 8 := by rw [hpc, BitVec.add_assoc]; rfl
    subst hwords
    rw [htext, hpc8, hpc]
    exact ⟨fun h4 => (hs.wordNext h4).trans (ht.word_eq h4).symm, fun h8 => (ht.word_eq h8).symm⟩

/-- Settles O58: the parameters and the text are kept by whatever the step does, the words fetched ahead are dropped or
kept with the pc moved on, and the environment's move touches none of these. -/
theorem textIsImmutable : Obligations.TextIsImmutable := by
  intro s t h
  obtain ⟨u, hu, rfl⟩ := step_eq_next h
  have hkept : TextKept s u.tick := (keepsText_stepCore s u hu).tick
  have hahead : u.tick.prefetched = none ∨
      (u.tick.pc = s.pc + 4 ∧ u.tick.prefetched = s.fetchAhead.prefetched) := by
    have hflows := stepCore_flows hu
    rw [u.tick_eq]
    exact hflows
  exact ⟨hkept.platform, hkept.bytes, hahead, fun hs => hs.of_kept hkept hahead⟩

end Sys2Proof.Machine
end

section
/-! PROOFS. Byte order (20_memory.md R50, R52): the value of a word and a halfword from its bytes, the bytes each
writes, and what a word written reads back as, whole, by bytes and by halfwords. -/

namespace Sys2Proof

/-! ## The value of placed fields -/

theorem toNat_place {n k : Nat} (lo : Nat) (x : BitVec n) (h : lo + n ≤ k) :
    (place lo x : BitVec k).toNat = 2 ^ lo * x.toNat := by
  have hk : 2 ^ lo * 2 ^ n ≤ 2 ^ k := by
    rw [← Nat.pow_add]
    exact Nat.pow_le_pow_right (by decide) h
  have hlt : 2 ^ lo * x.toNat < 2 ^ k :=
    Nat.lt_of_lt_of_le (Nat.mul_lt_mul_of_pos_left x.isLt (Nat.two_pow_pos lo)) hk
  have hx : x.toNat < 2 ^ k := Nat.lt_of_lt_of_le x.isLt (Nat.pow_le_pow_right (by decide) (by omega))
  rw [place, BitVec.toNat_shiftLeft, BitVec.toNat_setWidth, Nat.mod_eq_of_lt hx, Nat.shiftLeft_eq, Nat.mul_comm,
    Nat.mod_eq_of_lt hlt]

/-- A field joined to bits that all lie below it adds its value at its place. -/
theorem toNat_place_or {n k : Nat} (lo : Nat) (x : BitVec n) (y : BitVec k) (h : lo + n ≤ k) (hy : y.toNat < 2 ^ lo) :
    (place lo x ||| y).toNat = 2 ^ lo * x.toNat + y.toNat := by
  rw [BitVec.toNat_or, toNat_place lo x h, Nat.two_pow_add_eq_or_of_lt hy]

theorem toNat_place_zero {n k : Nat} (x : BitVec n) (h : n ≤ k) : (place 0 x : BitVec k).toNat = x.toNat := by
  rw [toNat_place 0 x (by omega), Nat.pow_zero, Nat.one_mul]

theorem toNat_two_bytes {k : Nat} (hk : 16 ≤ k) (b1 b0 : Byte) :
    (place 8 b1 ||| place 0 b0 : BitVec k).toNat = 256 * b1.toNat + b0.toNat := by
  have h0 : (place 0 b0 : BitVec k).toNat = b0.toNat := toNat_place_zero b0 (by omega)
  rw [toNat_place_or 8 b1 _ hk (h0 ▸ b0.isLt), h0]
  rfl

theorem toNat_four_bytes (b3 b2 b1 b0 : Byte) :
    (place 24 b3 ||| place 16 b2 ||| place 8 b1 ||| place 0 b0 : Word).toNat =
      16777216 * b3.toNat + 65536 * b2.toNat + 256 * b1.toNat + b0.toNat := by
  have h1 := toNat_two_bytes (k := 32) (by decide) b1 b0
  have h2 := toNat_place_or 16 b2 (place 8 b1 ||| place 0 b0 : Word) (by decide) (by omega)
  have h3 := toNat_place_or 24 b3 (place 16 b2 ||| (place 8 b1 ||| place 0 b0) : Word) (by decide) (by omega)
  rw [BitVec.or_assoc, BitVec.or_assoc, h3, h2, h1]
  omega

/-- Two bytes of a word that follow each other make the field they lie in. -/
theorem two_bytes_of_field (w : Word) (lo : Nat) :
    (place 8 (field w (lo + 8) 8) ||| place 0 (field w lo 8) : Half) = field w lo 16 := by
  apply BitVec.eq_of_getLsbD_eq
  intro i hi
  simp only [BitVec.getLsbD_or, getLsbD_place, getLsbD_field, hi, decide_true, Bool.true_and, Nat.sub_zero,
    Nat.zero_le]
  by_cases hlow : i < 8
  · simp [hlow, show ¬ 8 ≤ i by omega]
  · simp [hlow, show 8 ≤ i by omega, show i - 8 < 8 by omega, show lo + 8 + (i - 8) = lo + i by omega]

end Sys2Proof

namespace Sys2Proof.Machine

/-! ## The bytes written (R50) -/

theorem Memory.writeBytes_two (m : Memory) (a : Word) (b0 b1 : Byte) :
    m.writeBytes a [b0, b1] = (m.write a b0).write (a + 1) b1 := rfl

theorem Memory.writeBytes_four (m : Memory) (a : Word) (b0 b1 b2 b3 : Byte) :
    m.writeBytes a [b0, b1, b2, b3] = (((m.write a b0).write (a + 1) b1).write (a + 2) b2).write (a + 3) b3 := by
  have e2 : a + 1 + 1 = a + 2 := by bv_omega
  have e3 : a + 2 + 1 = a + 3 := by bv_omega
  simp only [Memory.writeBytes, e2, e3]

/-- Settles O16: the bytes joined have the value of their sum, and are written one after the other. -/
theorem byteOrder : Obligations.ByteOrder := by
  intro m a v h
  refine ⟨(toNat_four_bytes ..).trans (by omega), toNat_four_bytes ..,
    (toNat_two_bytes (by decide) ..).trans (by omega), toNat_two_bytes (by decide) .., ?_⟩
  exact ⟨m.writeBytes_four a _ _ _ _, m.writeBytes_four a _ _ _ _, m.writeBytes_two a _ _, m.writeBytes_two a _ _⟩

/-! ## A word written, read by parts (R50, R52) -/

/-- The byte of a word that stands `k` bytes above its address. -/
def byteAt (big : Bool) (v : Word) (k : Nat) : Byte := if big then field v (24 - 8 * k) 8 else field v (8 * k) 8

theorem bytesOfWord_eq_byteAt (big : Bool) (v : Word) :
    bytesOfWord big v = [byteAt big v 0, byteAt big v 1, byteAt big v 2, byteAt big v 3] := by
  cases big <;> rfl

theorem Memory.read_setWord_byte {m : Memory} (hm : m.wf = true) (big : Bool) (a v : Word) {k : Nat} (hk : k < 4) :
    (m.setWord big a v).read (a + BitVec.ofNat 32 k) = byteAt big v k := by
  obtain ⟨h0, h1, h2, h3⟩ := Memory.read_writeBytes_four hm a (byteAt big v 0) (byteAt big v 1) (byteAt big v 2)
    (byteAt big v 3)
  rw [Memory.setWord, bytesOfWord_eq_byteAt]
  match k, hk with
  | 0, _ => simpa using h0
  | 1, _ => exact h1
  | 2, _ => exact h2
  | 3, _ => exact h3

/-- The halfword that two bytes of a word make in its byte order. -/
theorem halfOfBytes_byteAt (big : Bool) (v : Word) {k : Nat} (hk : k ≤ 2) :
    halfOfBytes big (byteAt big v k) (byteAt big v (k + 1)) =
      if big then field v (16 - 8 * k) 16 else field v (8 * k) 16 := by
  cases big with
  | false => exact two_bytes_of_field v (8 * k)
  | true =>
    have hupper : 24 - 8 * k = 16 - 8 * k + 8 := by omega
    have hlower : 24 - 8 * (k + 1) = 16 - 8 * k := by omega
    simp only [halfOfBytes, byteAt, if_true, hlower, hupper]
    exact two_bytes_of_field v (16 - 8 * k)

theorem Memory.half_setWord {m : Memory} (hm : m.wf = true) (big : Bool) (a v : Word) {k : Nat} (hk : k ≤ 2) :
    (m.setWord big a v).half big (a + BitVec.ofNat 32 k) =
      if big then field v (16 - 8 * k) 16 else field v (8 * k) 16 := by
  have hnext : a + BitVec.ofNat 32 k + 1 = a + BitVec.ofNat 32 (k + 1) := by
    rw [BitVec.add_assoc, BitVec.ofNat_add]
    rfl
  rw [Memory.half, hnext, Memory.read_setWord_byte hm big a v (by omega),
    Memory.read_setWord_byte hm big a v (by omega), halfOfBytes_byteAt big v hk]

/-- Settles O17: a word and a halfword read back, and by parts a word reads as the bytes and halfwords it is made of. -/
theorem writeThenRead : Obligations.WriteThenRead := by
  intro m big a v h hm
  have hhalf := Memory.half_setWord hm big a v (k := 0) (by decide)
  rw [BitVec.add_zero] at hhalf
  exact ⟨Memory.word_setWord hm big a v, fun k => Memory.read_setWord_byte hm big a v, hhalf,
    Memory.half_setWord hm big a v (k := 2) (by decide), fun b => Memory.read_setWord_outside m big a v b,
    Memory.half_setHalf hm big a h, fun b => Memory.read_setHalf_outside m big a b h⟩

end Sys2Proof.Machine
end

section
/-! PROOFS. What the platform says of an access (20_memory.md R53 to R63): each load and store as the settling of its
address, the access and then the rest; each transfer as its accesses and then the rest; and where there is no step. -/

namespace Sys2Proof.Machine

/-! ## An access and the rest -/

theorem Attempt.andThen_assoc {α β γ : Type} (x : Attempt α) (k : α → Attempt β) (l : β → Attempt γ) :
    (x.andThen k).andThen l = x.andThen fun a => (k a).andThen l := by
  cases x <;> rfl

theorem require_andThen {α β : Type} (b : Bool) (r : Refusal) (x : Attempt α) (k : α → Attempt β) :
    (require b r x).andThen k = require b r (x.andThen k) := by
  cases b <;> rfl

/-- The address the memory sees of an access of `n` bytes: for a word by MISALIGNED_WORD, an odd one of a halfword is
refused (R53 to R55). -/
def State.settle (s : State) (a : Word) (n : Nat) : Attempt Word :=
  if n = 4 then s.wordAddress a else if n = 2 then require (!a.getLsbD 0) .misalignedHalf (.ok a) else .ok a

/-- An access up to where memory is read or written: the settled address, where the platform lets it through. -/
def State.reach (s : State) (kind : AccessKind) (a : Word) (n : Nat) : Attempt Word :=
  (s.settle a n).andThen fun b => (s.access kind b n).andThen fun _ => .ok b

/-- The attempt begins with `x`: what comes after it depends on the value of `x` alone. -/
def Attempt.StartsWith {α β : Type} (x : Attempt α) (y : Attempt β) : Prop := ∃ k, y = x.andThen k

section
variable {α β γ : Type}

theorem Attempt.startsWith_andThen {x : Attempt α} {y : Attempt β} (k : β → Attempt γ) (h : x.StartsWith y) :
    x.StartsWith (y.andThen k) := by
  obtain ⟨l, rfl⟩ := h
  exact ⟨fun a => (l a).andThen k, Attempt.andThen_assoc x l k⟩

theorem Attempt.StartsWith.outcome_fault {x : Attempt α} {y : Attempt State} {r : Fault} (h : x.StartsWith y)
    (hx : x = .fault r) : y.outcome = .fault r := by
  obtain ⟨k, rfl⟩ := h
  rw [hx, Attempt.andThen_fault, Attempt.outcome_fault]

theorem Attempt.StartsWith.outcome_refused {x : Attempt α} {y : Attempt State} {r : Refusal} (h : x.StartsWith y)
    (hx : x = .refused r) : y.outcome = .refused r := by
  obtain ⟨k, rfl⟩ := h
  rw [hx, Attempt.andThen_refused, Attempt.outcome_refused]

end

/-! ## Each load and store -/

theorem State.reach_word (s : State) (kind : AccessKind) (a : Word) :
    s.reach kind a 4 = (s.wordAddress a).andThen fun b => (s.access kind b 4).andThen fun _ => .ok b := rfl

theorem State.reach_half (s : State) (kind : AccessKind) (a : Word) :
    s.reach kind a 2 = require (!a.getLsbD 0) .misalignedHalf ((s.access kind a 2).andThen fun _ => .ok a) :=
  require_andThen ..

theorem State.reach_byte (s : State) (kind : AccessKind) (a : Word) :
    s.reach kind a 1 = (s.access kind a 1).andThen fun _ => .ok a := rfl

theorem State.loadWord_startsWith (s : State) (a : Word) : (s.reach .read a 4).StartsWith (s.loadWord a) :=
  ⟨fun b => .ok ((s.mem.word s.platform.bigEndian b).rotateRight (8 * (field a 0 2).toNat)), by
    simp only [State.reach_word, State.loadWord, State.loadAligned, Attempt.andThen_assoc, Attempt.andThen_ok]⟩

theorem State.storeWord_startsWith (s : State) (a v : Word) : (s.reach .write a 4).StartsWith (s.storeWord a v) :=
  ⟨fun b => .ok (s.setMem (s.mem.setWord s.platform.bigEndian b v)), by
    simp only [State.reach_word, State.storeWord, State.storeAligned, Attempt.andThen_assoc, Attempt.andThen_ok]⟩

theorem State.loadHalf_startsWith (s : State) (a : Word) : (s.reach .read a 2).StartsWith (s.loadHalf a) :=
  ⟨fun b => .ok (s.mem.half s.platform.bigEndian b), by
    simp only [State.reach_half, State.loadHalf, require_andThen, Attempt.andThen_assoc, Attempt.andThen_ok]⟩

theorem State.storeHalf_startsWith (s : State) (a : Word) (v : Half) :
    (s.reach .write a 2).StartsWith (s.storeHalf a v) :=
  ⟨fun b => .ok (s.setMem (s.mem.setHalf s.platform.bigEndian b v)), by
    simp only [State.reach_half, State.storeHalf, require_andThen, Attempt.andThen_assoc, Attempt.andThen_ok]⟩

theorem State.loadByte_startsWith (s : State) (a : Word) : (s.reach .read a 1).StartsWith (s.loadByte a) :=
  ⟨fun b => .ok (s.mem.read b), by
    simp only [State.reach_byte, State.loadByte, Attempt.andThen_assoc, Attempt.andThen_ok]⟩

theorem State.storeByte_startsWith (s : State) (a : Word) (v : Byte) :
    (s.reach .write a 1).StartsWith (s.storeByte a v) :=
  ⟨fun b => .ok (s.setMem (s.mem.write b v)), by
    simp only [State.reach_byte, State.storeByte, Attempt.andThen_assoc, Attempt.andThen_ok]⟩

/-! ## The transfers behind their checks -/

theorem runs_iff (i : Instr) (s : State) :
    runs i s = true ↔ condPassed i.cond s.cpsr = true ∧ i.wellFormed = true := by
  rw [runs, Bool.and_eq_true]

/-- An instruction that runs comes to its body. -/
theorem exec_of_runs {i : Instr} {s : State} {body : Attempt State} (h : runs i s = true)
    (he : exec i s = conditional i.cond s body) : exec i s = body.outcome :=
  he.trans (conditional_passed ((runs_iff i s).mp h).1)

theorem require_of_true {α : Type} {b : Bool} (h : b = true) (r : Refusal) (k : Attempt α) : require b r k = k := by
  rw [h, require_true]

/-- Two checks in a row, both met. -/
theorem require_require_of_and {α : Type} {b c : Bool} (h : (b && c) = true) (r q : Refusal) (k : Attempt α) :
    require b r (require c q k) = k := by
  obtain ⟨hb, hc⟩ := (Bool.and_eq_true _ _).mp h
  rw [require_of_true hb, require_of_true hc]

section
variable {c : Cond} {s : State} {p u w : Bool} {rn rd : Reg}

theorem exec_ldr {x : WordOffset} (h : runs (x.ldr c p u w rn rd) s = true) :
    exec (x.ldr c p u w rn rd) s = (loadSingle s false p u w rn rd (x.value s)).outcome := by
  obtain ⟨_, hwf⟩ := (runs_iff _ s).mp h
  cases x <;> exact (exec_of_runs h rfl).trans (congrArg _ (require_require_of_and hwf _ _ _))

theorem exec_str {x : WordOffset} (h : runs (x.str c p u w rn rd) s = true) :
    exec (x.str c p u w rn rd) s = (storeSingle s false p u w rn rd (x.value s)).outcome := by
  obtain ⟨_, hwf⟩ := (runs_iff _ s).mp h
  cases x <;> exact (exec_of_runs h rfl).trans (congrArg _ (require_require_of_and hwf _ _ _))

theorem exec_ldrb {x : WordOffset} (h : runs (x.ldrb c p u w rn rd) s = true) :
    exec (x.ldrb c p u w rn rd) s = (loadSingle s true p u w rn rd (x.value s)).outcome := by
  obtain ⟨_, hwf⟩ := (runs_iff _ s).mp h
  cases x <;> exact (exec_of_runs h rfl).trans (congrArg _ (require_require_of_and hwf _ _ _))

theorem exec_strb {x : WordOffset} (h : runs (x.strb c p u w rn rd) s = true) :
    exec (x.strb c p u w rn rd) s = (storeSingle s true p u w rn rd (x.value s)).outcome := by
  obtain ⟨_, hwf⟩ := (runs_iff _ s).mp h
  cases x <;> exact (exec_of_runs h rfl).trans (congrArg _ (require_require_of_and hwf _ _ _))

theorem exec_ldrh {x : HalfOffset} (h : runs (x.ldrh c p u w rn rd) s = true) :
    exec (x.ldrh c p u w rn rd) s = (loadExtended s p u w rn rd (x.value s) s.halfUnsigned).outcome := by
  obtain ⟨_, hwf⟩ := (runs_iff _ s).mp h
  cases x <;> exact (exec_of_runs h rfl).trans (congrArg _ (require_require_of_and hwf _ _ _))

theorem exec_ldrsh {x : HalfOffset} (h : runs (x.ldrsh c p u w rn rd) s = true) :
    exec (x.ldrsh c p u w rn rd) s = (loadExtended s p u w rn rd (x.value s) s.halfSigned).outcome := by
  obtain ⟨_, hwf⟩ := (runs_iff _ s).mp h
  cases x <;> exact (exec_of_runs h rfl).trans (congrArg _ (require_require_of_and hwf _ _ _))

theorem exec_ldrsb {x : HalfOffset} (h : runs (x.ldrsb c p u w rn rd) s = true) :
    exec (x.ldrsb c p u w rn rd) s = (loadExtended s p u w rn rd (x.value s) s.byteSigned).outcome := by
  obtain ⟨_, hwf⟩ := (runs_iff _ s).mp h
  cases x <;> exact (exec_of_runs h rfl).trans (congrArg _ (require_require_of_and hwf _ _ _))

theorem exec_strh {x : HalfOffset} (h : runs (x.strh c p u w rn rd) s = true) :
    exec (x.strh c p u w rn rd) s = (storeHalfword s p u w rn rd (x.value s)).outcome := by
  obtain ⟨_, hwf⟩ := (runs_iff _ s).mp h
  cases x <;> exact (exec_of_runs h rfl).trans (congrArg _ (require_require_of_and hwf _ _ _))

theorem exec_swp {rm : Reg} (h : runs (.swp c rn rd rm) s = true) :
    exec (.swp c rn rd rm) s = (swapWord s rn rd rm).outcome :=
  (exec_of_runs h rfl).trans (congrArg _ (require_of_true ((runs_iff _ s).mp h).2 _ _))

theorem exec_swpb {rm : Reg} (h : runs (.swpb c rn rd rm) s = true) :
    exec (.swpb c rn rd rm) s = (swapByte s rn rd rm).outcome :=
  (exec_of_runs h rfl).trans (congrArg _ (require_of_true ((runs_iff _ s).mp h).2 _ _))

theorem exec_ldm {m : BlockMode} {sb : Bool} {list : BitVec 16} (hmode : sb = false ∨ hasSpsr s = true)
    (h : runs (m.ldm c sb w rn list) s = true) :
    exec (m.ldm c sb w rn list) s = (ldm s m sb w rn list).outcome := by
  obtain ⟨_, hwf⟩ := (runs_iff _ s).mp h
  cases m <;>
  · obtain ⟨hblock, huser⟩ := (Bool.and_eq_true _ _).mp hwf
    exact (exec_of_runs h rfl).trans (congrArg _ (checkedBlock_of_mode hmode hblock huser))

theorem exec_stm {m : BlockMode} {sb : Bool} {list : BitVec 16} (hmode : sb = false ∨ hasSpsr s = true)
    (h : runs (m.stm c sb w rn list) s = true) :
    exec (m.stm c sb w rn list) s = (stm s m sb w rn list).outcome := by
  obtain ⟨_, hwf⟩ := (runs_iff _ s).mp h
  cases m <;>
  · obtain ⟨hblock, huser⟩ := (Bool.and_eq_true _ _).mp hwf
    exact (exec_of_runs h rfl).trans (congrArg _ (checkedBlock_of_mode hmode hblock huser))

end

/-- The address register of a swap is not R15 (R201). -/
theorem swapOk_base {rn rd rm : Reg} (h : swapOk rn rd rm = true) : rn ≠ 15#4 := by
  simp only [swapOk, Bool.and_eq_true, Bool.not_eq_true'] at h
  exact isPc_eq_false.mp h.1.1.1.1

/-! ## The accesses of an instruction with one address -/

section
variable {f : AccessForm} {c : Cond} {s : State}

/-- The instruction comes to an attempt that begins with its access of this kind. -/
def AccessForm.Begins (f : AccessForm) (c : Cond) (s : State) (kind : AccessKind) : Prop :=
  ∃ y, exec (f.instr c) s = y.outcome ∧ (s.reach kind (f.address s) f.width).StartsWith y

theorem AccessForm.begins_first (h : runs (f.instr c) s = true) : f.Begins c s f.firstKind := by
  cases f with
  | ldr => exact ⟨_, exec_ldr h, Attempt.startsWith_andThen _ (State.loadWord_startsWith s _)⟩
  | str => exact ⟨_, exec_str h, Attempt.startsWith_andThen _ (State.storeWord_startsWith s _ _)⟩
  | ldrb =>
    refine ⟨_, exec_ldrb h, Attempt.startsWith_andThen _ ?_⟩
    exact Attempt.startsWith_andThen _ (State.loadByte_startsWith s _)
  | strb => exact ⟨_, exec_strb h, Attempt.startsWith_andThen _ (State.storeByte_startsWith s _ _)⟩
  | ldrh =>
    refine ⟨_, exec_ldrh h, Attempt.startsWith_andThen _ ?_⟩
    exact Attempt.startsWith_andThen _ (State.loadHalf_startsWith s _)
  | ldrsh =>
    refine ⟨_, exec_ldrsh h, Attempt.startsWith_andThen _ ?_⟩
    exact Attempt.startsWith_andThen _ (State.loadHalf_startsWith s _)
  | ldrsb =>
    refine ⟨_, exec_ldrsb h, Attempt.startsWith_andThen _ ?_⟩
    exact Attempt.startsWith_andThen _ (State.loadByte_startsWith s _)
  | strh => exact ⟨_, exec_strh h, Attempt.startsWith_andThen _ (State.storeHalf_startsWith s _ _)⟩
  | swp rn rd rm =>
    have hbase := s.reg_of_ne (swapOk_base ((runs_iff _ s).mp h).2)
    refine ⟨_, exec_swp h, Attempt.startsWith_andThen _ ?_⟩
    rw [hbase]
    exact State.loadWord_startsWith s _
  | swpb rn rd rm =>
    have hbase := s.reg_of_ne (swapOk_base ((runs_iff _ s).mp h).2)
    refine ⟨_, exec_swpb h, Attempt.startsWith_andThen _ ?_⟩
    rw [hbase]
    exact State.loadByte_startsWith s _

/-- A store begins with its write, and so does a swap whose read is let through. -/
theorem AccessForm.begins_write (h : runs (f.instr c) s = true) (hw : f.writes = true) (hal : f.alignedOk s = true)
    (hr : f.reads = true → readable s (f.seen s) f.width = true) : f.Begins c s .write := by
  cases f with
  | ldr | ldrb | ldrh | ldrsh | ldrsb => cases hw
  | str | strb | strh => exact AccessForm.begins_first h
  | swp rn rd rm =>
    have hbase := s.reg_of_ne (swapOk_base ((runs_iff _ s).mp h).2)
    have hload : s.loadWord (s.phys (physReg s.bank rn)) = .ok _ := State.loadWord_ok hal (hr rfl)
    refine ⟨_, exec_swp h, ?_⟩
    rw [swapWord, hbase, hload, Attempt.andThen_ok]
    exact Attempt.startsWith_andThen _ (State.storeWord_startsWith s _ _)
  | swpb rn rd rm =>
    have hbase := s.reg_of_ne (swapOk_base ((runs_iff _ s).mp h).2)
    have hload : s.loadByte (s.phys (physReg s.bank rn)) = .ok _ := State.loadByte_ok (hr rfl)
    refine ⟨_, exec_swpb h, ?_⟩
    rw [swapByte, hbase, hload, Attempt.andThen_ok]
    exact Attempt.startsWith_andThen _ (State.storeByte_startsWith s _ _)

theorem AccessForm.Begins.exec_fault {kind : AccessKind} {r : Fault} (h : f.Begins c s kind)
    (hr : s.reach kind (f.address s) f.width = .fault r) : exec (f.instr c) s = .fault r := by
  obtain ⟨y, hy, hstart⟩ := h
  rw [hy, hstart.outcome_fault hr]

theorem AccessForm.Begins.exec_refused {kind : AccessKind} {r : Refusal} (h : f.Begins c s kind)
    (hr : s.reach kind (f.address s) f.width = .refused r) : exec (f.instr c) s = .refused r := by
  obtain ⟨y, hy, hstart⟩ := h
  rw [hy, hstart.outcome_refused hr]

/-- An access that is not refused for its alignment is made at the address the memory sees. -/
theorem AccessForm.reach_of_alignedOk (h : f.alignedOk s = true) (kind : AccessKind) :
    s.reach kind (f.address s) f.width = (s.access kind (f.seen s) f.width).andThen fun _ => .ok (f.seen s) := by
  have hsettle : s.settle (f.address s) f.width = .ok (f.seen s) := by
    unfold State.settle AccessForm.seen
    unfold AccessForm.alignedOk at h
    by_cases h4 : f.width = 4
    · rw [if_pos h4] at h ⊢
      rw [if_pos h4, State.wordAddress_of_ok h]
    · rw [if_neg h4] at h ⊢
      rw [if_neg h4]
      by_cases h2 : f.width = 2
      · rw [if_pos h2] at h ⊢
        rw [h, require_true]
      · rw [if_neg h2]
  rw [State.reach, hsettle, Attempt.andThen_ok]

end

theorem wordAccessOk_eq_false {s : State} {a : Word} (ha : wordAligned a = false)
    (hp : s.platform.misaligned = .refuse) : wordAccessOk s a = false := by
  simp [wordAccessOk, ha, hp]

theorem State.reach_misalignedWord {s : State} {a : Word} (ha : wordAligned a = false)
    (hp : s.platform.misaligned = .refuse) (kind : AccessKind) : s.reach kind a 4 = .refused .misalignedWord := by
  rw [State.reach_word, State.wordAddress_of_not_ok (wordAccessOk_eq_false ha hp), Attempt.andThen_refused]

theorem State.reach_misalignedHalf {s : State} {a : Word} (ha : a.getLsbD 0 = true) (kind : AccessKind) :
    s.reach kind a 2 = .refused .misalignedHalf := by
  rw [State.reach_half, ha]
  rfl

/-! ## The accesses of a block transfer -/

/-- A block load whose first words can be read comes to the access of the next one. -/
theorem State.loadWords_startsWith {s : State} {a : Word} {n j : Nat} (hj : j < n)
    (h : ∀ k, k < j → readable s (a + BitVec.ofNat 32 (4 * k)) 4 = true) :
    (s.access .read (a + BitVec.ofNat 32 (4 * j)) 4).StartsWith (s.loadWords a n) := by
  obtain ⟨d, rfl⟩ := Nat.exists_eq_add_of_lt hj
  rw [Nat.add_assoc, State.loadWords_add, State.loadWords_ok h, Attempt.andThen_ok]
  exact Attempt.startsWith_andThen _ (Attempt.startsWith_andThen _ ⟨_, rfl⟩)

/-- A block store that meets no abort, hole or text changes memory alone. -/
theorem State.storeWords_setMem {s : State} {a : Word} {vs : List Word}
    (h : ∀ k, k < vs.length → writable s (a + BitVec.ofNat 32 (4 * k)) 4 = true) :
    ∃ m, s.storeWords a vs = .ok (s.setMem m) := by
  induction vs generalizing s a with
  | nil => exact ⟨s.mem, rfl⟩
  | cons v rest ih =>
    have hfirst : writable s a 4 = true := by simpa using h 0 (Nat.succ_pos _)
    have hrest (k : Nat) (hk : k < rest.length) : writable s (a + 4 + BitVec.ofNat 32 (4 * k)) 4 = true := by
      rw [word_after]
      exact h (k + 1) (Nat.succ_lt_succ hk)
    obtain ⟨m, hm⟩ := ih (s := s.setMem (s.mem.setWord s.platform.bigEndian a v)) hrest
    refine ⟨m, ?_⟩
    rw [State.storeWords, State.storeAligned_eq_ok.mpr ⟨hfirst, rfl⟩, Attempt.andThen_ok, hm]
    rfl

/-- A block store whose first words can be written comes, with those written, to the access of the next one. -/
theorem State.storeWords_startsWith {s : State} {a : Word} {vs : List Word} {j : Nat} (hj : j < vs.length)
    (h : ∀ k, k < j → writable s (a + BitVec.ofNat 32 (4 * k)) 4 = true) :
    ∃ m, ((s.setMem m).access .write (a + BitVec.ofNat 32 (4 * j)) 4).StartsWith (s.storeWords a vs) := by
  have hlen : (vs.take j).length = j := List.length_take_of_le hj.le
  obtain ⟨m, hm⟩ := State.storeWords_setMem (s := s) (a := a) (vs := vs.take j) fun k hk => h k (hlen ▸ hk)
  refine ⟨m, ?_⟩
  rw [← List.take_append_drop j vs, State.storeWords_append, hm, Attempt.andThen_ok, hlen,
    List.drop_eq_getElem_cons hj]
  exact Attempt.startsWith_andThen _ ⟨_, rfl⟩

section
variable {s : State} {m : BlockMode} {sb w : Bool} {rn : Reg} {list : BitVec 16}

theorem ldm_startsWith_address : (s.wordAddress (s.reg rn)).StartsWith (ldm s m sb w rn list) := ⟨_, rfl⟩

theorem stm_startsWith_address : (s.wordAddress (s.reg rn)).StartsWith (stm s m sb w rn list) := ⟨_, rfl⟩

/-- LDM comes to the access of a listed register where the words below its own can be read. -/
theorem ldm_startsWith_slot {q : Reg} (ha : wordAccessOk s (s.reg rn) = true) (hq : list.getLsbD q.toNat = true)
    (h : ∀ r : Reg, r.toNat < q.toNat → list.getLsbD r.toNat = true → readable s (slot s m rn list r) 4 = true) :
    (s.access .read (slot s m rn list q) 4).StartsWith (ldm s m sb w rn list) := by
  rw [ldm, State.wordAddress_of_ok ha, Attempt.andThen_ok]
  refine Attempt.startsWith_andThen _ (State.loadWords_startsWith ?_ fun k hk => ?_)
  · exact (rank_lt_count list q hq).trans_eq (length_regsOf list).symm
  · obtain ⟨r, hlt, hr, rfl⟩ := exists_lower list hq hk
    exact h r hlt hr

/-- STM comes, with the words below written, to the access of a listed register where those can be written. -/
theorem stm_startsWith_slot {q : Reg} (ha : wordAccessOk s (s.reg rn) = true) (hq : list.getLsbD q.toNat = true)
    (h : ∀ r : Reg, r.toNat < q.toNat → list.getLsbD r.toNat = true → writable s (slot s m rn list r) 4 = true) :
    ∃ mem, ((s.setMem mem).access .write (slot s m rn list q) 4).StartsWith (stm s m sb w rn list) := by
  rw [stm, State.wordAddress_of_ok ha, Attempt.andThen_ok]
  have hrank : rank list q < ((regsOf list).map (blockValue s (usesUserBank false sb list))).length := by
    rw [List.length_map, length_regsOf]
    exact rank_lt_count list q hq
  obtain ⟨mem, hmem⟩ := State.storeWords_startsWith (s := s) (a := blockStart m (alignDown (s.reg rn)) list) hrank
    fun k hk => by
      obtain ⟨r, hlt, hr, rfl⟩ := exists_lower list hq hk
      exact h r hlt hr
  exact ⟨mem, Attempt.startsWith_andThen _ hmem⟩

end

/-! ## No step -/

/-- A fetch outside MemMap that no abort claims is stuck (R61, R259). -/
theorem step_of_unmapped {s : State} (hs : reachesFetch s = true) (ha : s.platform.abortsAt .fetch s.pc 4 = false)
    (hm : s.platform.mapped s.pc 4 = false) : step s = .fault .unmapped := by
  obtain ⟨hended, hreset, hint⟩ := (reachesFetch_iff s).mp hs
  simp [step, tickOutcome, stepCore, State.fetch, hended, hreset, hint, ha, hm]

/-- Settles O42: every instruction comes to its access, and the access answers with the refusal or the fault; a block
transfer does where the words below can be transferred, and a swap comes to its write where its read is let through. -/
theorem accessesWithoutStep : Obligations.AccessesWithoutStep := by
  refine ⟨fun s => step_of_unmapped, fun f c s h => ⟨?_, ?_, ?_, ?_⟩,
    fun m c sb w rn list s hmode => ⟨?_, ?_⟩⟩
  · intro hwidth ha hp
    exact (AccessForm.begins_first h).exec_refused (hwidth ▸ State.reach_misalignedWord ha hp _)
  · intro hwidth ha
    exact (AccessForm.begins_first h).exec_refused (hwidth ▸ State.reach_misalignedHalf ha _)
  · intro hal ha hm
    refine (AccessForm.begins_first h).exec_fault ?_
    rw [AccessForm.reach_of_alignedOk hal, State.access_unmapped ha hm, Attempt.andThen_fault]
  · intro hw hal hr ha hm ht
    refine (AccessForm.begins_write h hw hal hr).exec_refused ?_
    rw [AccessForm.reach_of_alignedOk hal, State.access_text ha hm ht, Attempt.andThen_refused]
  · intro h
    rw [exec_ldm hmode h]
    refine ⟨fun ha hp => ?_, fun q hok hq hlower ha hm => ?_⟩
    · exact ldm_startsWith_address.outcome_refused (State.wordAddress_of_not_ok (wordAccessOk_eq_false ha hp))
    · exact (ldm_startsWith_slot hok hq hlower).outcome_fault (State.access_unmapped ha hm)
  · intro h
    rw [exec_stm hmode h]
    refine ⟨fun ha hp => ?_, fun q hok hq hlower ha => ?_⟩
    · exact stm_startsWith_address.outcome_refused (State.wordAddress_of_not_ok (wordAccessOk_eq_false ha hp))
    · obtain ⟨mem, hstart⟩ := stm_startsWith_slot (sb := sb) (w := w) hok hq hlower
      exact ⟨fun hm => hstart.outcome_fault (State.access_unmapped ha hm),
        fun hm ht => hstart.outcome_refused (State.access_text ha hm ht)⟩

end Sys2Proof.Machine
end

section
/-! PROOFS. The instruction formats as layouts (30_encoding.md R72): a word is determined by fields that tile it, so each
format of the encoder is the one word with the fields the format names. -/

namespace Sys2Proof

/-! ## Words and the fields that tile them -/

/-- A value at the bits `lo + n - 1` down to `lo` of a word. -/
structure Piece where
  lo : Nat
  n : Nat
  val : BitVec n

/-- The word that holds each piece at its place. -/
def layout (ps : List Piece) : Word :=
  match ps with
  | [] => 0#32
  | p :: rest => place p.lo p.val ||| layout rest

/-- The pieces follow each other from bit `hi - 1` down to bit 0. -/
def tiles (hi : Nat) (ps : List Piece) : Bool :=
  match ps with
  | [] => hi == 0
  | p :: rest => p.lo + p.n == hi && tiles p.lo rest

theorem tiles_cons (hi : Nat) (p : Piece) (rest : List Piece) :
    tiles hi (p :: rest) = true ↔ p.lo + p.n = hi ∧ tiles p.lo rest = true := by
  simp [tiles]

theorem le_of_mem_tiles {hi : Nat} {ps : List Piece} (h : tiles hi ps = true) {p : Piece} (hp : p ∈ ps) :
    p.lo + p.n ≤ hi := by
  induction ps generalizing hi with
  | nil => cases hp
  | cons q rest ih =>
    obtain ⟨hq, hrest⟩ := (tiles_cons hi q rest).mp h
    rcases List.mem_cons.mp hp with rfl | hmem
    · exact hq.le
    · have := ih hrest hmem
      omega

/-- Above the pieces a layout is 0. -/
theorem field_layout_above {hi : Nat} {ps : List Piece} (h : tiles hi ps = true) (lo n : Nat) (hlo : hi ≤ lo) :
    field (layout ps) lo n = 0#n := by
  induction ps generalizing hi with
  | nil => simp [layout, field]
  | cons p rest ih =>
    obtain ⟨hp, hrest⟩ := (tiles_cons hi p rest).mp h
    simp only [layout, field_or, field_place_below p.lo lo n p.val (by omega), ih hrest (by omega), BitVec.or_self]

/-- A layout reads back each of its pieces. -/
theorem field_layout {hi : Nat} {ps : List Piece} (h : tiles hi ps = true) (hhi : hi ≤ 32) {p : Piece} (hp : p ∈ ps) :
    field (layout ps) p.lo p.n = p.val := by
  induction ps generalizing hi with
  | nil => cases hp
  | cons q rest ih =>
    obtain ⟨hq, hrest⟩ := (tiles_cons hi q rest).mp h
    simp only [layout, field_or]
    rcases List.mem_cons.mp hp with rfl | hmem
    · rw [field_place_self p.lo p.val (by omega), field_layout_above hrest p.lo p.n (le_refl _), BitVec.or_zero]
    · rw [field_place_above q.lo p.lo p.n q.val (le_of_mem_tiles hrest hmem), ih hrest (by omega) hmem, BitVec.zero_or]

/-- Two words with the same pieces agree below the top of the pieces. -/
theorem getLsbD_eq_of_tiles {hi : Nat} {ps : List Piece} (h : tiles hi ps = true) {v w : Word}
    (hvw : ∀ p ∈ ps, field v p.lo p.n = field w p.lo p.n) (i : Nat) (hi' : i < hi) : v.getLsbD i = w.getLsbD i := by
  induction ps generalizing hi with
  | nil => simp [tiles] at h; omega
  | cons p rest ih =>
    obtain ⟨hp, hrest⟩ := (tiles_cons hi p rest).mp h
    by_cases hlow : i < p.lo
    · exact ih hrest (fun q hq => hvw q (List.mem_cons_of_mem p hq)) hlow
    · have hbit := congrArg (BitVec.getLsbD · (i - p.lo)) (hvw p List.mem_cons_self)
      simpa [show i - p.lo < p.n by omega, show p.lo + (i - p.lo) = i by omega] using hbit

/-- A layout that tiles the word is the one word with its fields. -/
theorem layout_eq_iff (ps : List Piece) (h : tiles 32 ps = true) (w : Word) :
    layout ps = w ↔ ∀ p ∈ ps, field w p.lo p.n = p.val := by
  constructor
  · rintro rfl p hp
    exact field_layout h (le_refl _) hp
  · intro hw
    refine BitVec.eq_of_getLsbD_eq fun i hi => getLsbD_eq_of_tiles h (fun p hp => ?_) i hi
    rw [field_layout h (le_refl _) hp, hw p hp]

/-! ## Single bits, and a field as two -/

@[simp] theorem place_zero (n k lo : Nat) : (place lo 0#n : BitVec k) = 0#k := by simp [place]

@[simp] theorem field_one (w : Word) (lo : Nat) : field w lo 1 = bit (w.getLsbD lo) := by
  refine BitVec.eq_of_getLsbD_eq fun i hi => ?_
  obtain rfl : i = 0 := by omega
  simp

@[simp] theorem bit_inj (a b : Bool) : bit a = bit b ↔ a = b := by cases a <;> cases b <;> decide

@[simp] theorem bit_eq_one (b : Bool) : bit b = 1#1 ↔ b = true := bit_inj b true

@[simp] theorem bit_eq_zero (b : Bool) : bit b = 0#1 ↔ b = false := bit_inj b false

/-- The upper `m` and the lower `n` bits of a field. -/
theorem field_split (m n : Nat) {w : Word} {lo k : Nat} {x : BitVec k} (hk : k = m + n) :
    field w lo k = x ↔ field w (lo + n) m = x.extractLsb' n m ∧ field w lo n = x.extractLsb' 0 n := by
  constructor
  · rintro rfl
    constructor <;> refine BitVec.eq_of_getLsbD_eq fun i hi => ?_
    · simp [hi, show n + i < k by omega, Nat.add_assoc]
    · simp [hi, show i < k by omega]
  · rintro ⟨hupper, hlower⟩
    refine BitVec.eq_of_getLsbD_eq fun i hi => ?_
    by_cases hlow : i < n
    · have hbit := congrArg (BitVec.getLsbD · i) hlower
      simpa [hlow, hi] using hbit
    · have hbit := congrArg (BitVec.getLsbD · (i - n)) hupper
      simpa [hi, show i - n < m by omega, show n + (i - n) = i by omega,
        show lo + n + (i - n) = lo + i by omega] using hbit

/-! ## Each format of the encoder -/

theorem encDpImm_eq_iff {c : Cond} {op : BitVec 4} {sb : Bool} {rn rd : Reg} {rot : BitVec 4} {imm8 : BitVec 8}
    {w : Word} :
    encDpImm c op sb rn rd rot imm8 = w ↔
      field w 28 4 = c.bits ∧ field w 25 3 = 0b001#3 ∧ field w 21 4 = op ∧ w.getLsbD 20 = sb ∧ field w 16 4 = rn ∧
        field w 12 4 = rd ∧ field w 8 4 = rot ∧ field w 0 8 = imm8 := by
  have h := layout_eq_iff [⟨28, 4, c.bits⟩, ⟨25, 3, 0b001#3⟩, ⟨21, 4, op⟩, ⟨20, 1, bit sb⟩, ⟨16, 4, rn⟩,
    ⟨12, 4, rd⟩, ⟨8, 4, rot⟩, ⟨0, 8, imm8⟩] rfl w
  simpa [encDpImm, layout, BitVec.or_assoc] using h

theorem encDpShiftImm_eq_iff {c : Cond} {op : BitVec 4} {sb : Bool} {rn rd : Reg} {amt : BitVec 5} {sh : ShiftType}
    {rm : Reg} {w : Word} :
    encDpShiftImm c op sb rn rd amt sh rm = w ↔
      field w 28 4 = c.bits ∧ field w 25 3 = 0b000#3 ∧ field w 21 4 = op ∧ w.getLsbD 20 = sb ∧ field w 16 4 = rn ∧
        field w 12 4 = rd ∧ field w 7 5 = amt ∧ field w 5 2 = sh.bits ∧ w.getLsbD 4 = false ∧ field w 0 4 = rm := by
  have h := layout_eq_iff [⟨28, 4, c.bits⟩, ⟨25, 3, 0#3⟩, ⟨21, 4, op⟩, ⟨20, 1, bit sb⟩, ⟨16, 4, rn⟩, ⟨12, 4, rd⟩,
    ⟨7, 5, amt⟩, ⟨5, 2, sh.bits⟩, ⟨4, 1, 0#1⟩, ⟨0, 4, rm⟩] rfl w
  simpa [encDpShiftImm, layout, BitVec.or_assoc] using h

theorem encDpShiftReg_eq_iff {c : Cond} {op : BitVec 4} {sb : Bool} {rn rd rs : Reg} {sh : ShiftType} {rm : Reg}
    {w : Word} :
    encDpShiftReg c op sb rn rd rs sh rm = w ↔
      field w 28 4 = c.bits ∧ field w 25 3 = 0b000#3 ∧ field w 21 4 = op ∧ w.getLsbD 20 = sb ∧ field w 16 4 = rn ∧
        field w 12 4 = rd ∧ field w 8 4 = rs ∧ w.getLsbD 7 = false ∧ field w 5 2 = sh.bits ∧ w.getLsbD 4 = true ∧
        field w 0 4 = rm := by
  have h := layout_eq_iff [⟨28, 4, c.bits⟩, ⟨25, 3, 0#3⟩, ⟨21, 4, op⟩, ⟨20, 1, bit sb⟩, ⟨16, 4, rn⟩, ⟨12, 4, rd⟩,
    ⟨8, 4, rs⟩, ⟨7, 1, 0#1⟩, ⟨5, 2, sh.bits⟩, ⟨4, 1, 1#1⟩, ⟨0, 4, rm⟩] rfl w
  simpa [encDpShiftReg, layout, BitVec.or_assoc] using h

theorem encMultiply_eq_iff {c : Cond} {op : BitVec 7} {sb : Bool} {hi lo rs rm : Reg} {w : Word} :
    encMultiply c op sb hi lo rs rm = w ↔
      field w 28 4 = c.bits ∧ field w 21 7 = op ∧ w.getLsbD 20 = sb ∧ field w 16 4 = hi ∧ field w 12 4 = lo ∧
        field w 8 4 = rs ∧ field w 4 4 = 0b1001#4 ∧ field w 0 4 = rm := by
  have h := layout_eq_iff [⟨28, 4, c.bits⟩, ⟨21, 7, op⟩, ⟨20, 1, bit sb⟩, ⟨16, 4, hi⟩, ⟨12, 4, lo⟩, ⟨8, 4, rs⟩,
    ⟨4, 4, 0b1001#4⟩, ⟨0, 4, rm⟩] rfl w
  simpa [encMultiply, layout, BitVec.or_assoc] using h

theorem encSwap_eq_iff {c : Cond} {byte : Bool} {rn rd rm : Reg} {w : Word} :
    encSwap c byte rn rd rm = w ↔
      field w 28 4 = c.bits ∧ field w 23 5 = 0b00010#5 ∧ w.getLsbD 22 = byte ∧ field w 20 2 = 0b00#2 ∧
        field w 16 4 = rn ∧ field w 12 4 = rd ∧ field w 4 8 = 0b00001001#8 ∧ field w 0 4 = rm := by
  have h := layout_eq_iff [⟨28, 4, c.bits⟩, ⟨23, 5, 0b00010#5⟩, ⟨22, 1, bit byte⟩, ⟨20, 2, 0#2⟩, ⟨16, 4, rn⟩,
    ⟨12, 4, rd⟩, ⟨4, 8, 0b00001001#8⟩, ⟨0, 4, rm⟩] rfl w
  simpa [encSwap, layout, BitVec.or_assoc] using h

theorem encHalfReg_eq_iff {c : Cond} {p u wb l : Bool} {rn rd : Reg} {sh : BitVec 2} {rm : Reg} {w : Word} :
    encHalfReg c p u wb l rn rd sh rm = w ↔
      field w 28 4 = c.bits ∧ field w 25 3 = 0b000#3 ∧ w.getLsbD 24 = p ∧ w.getLsbD 23 = u ∧ w.getLsbD 22 = false ∧
        w.getLsbD 21 = wb ∧ w.getLsbD 20 = l ∧ field w 16 4 = rn ∧ field w 12 4 = rd ∧ field w 7 5 = 0b00001#5 ∧
        field w 5 2 = sh ∧ w.getLsbD 4 = true ∧ field w 0 4 = rm := by
  have h := layout_eq_iff [⟨28, 4, c.bits⟩, ⟨25, 3, 0#3⟩, ⟨24, 1, bit p⟩, ⟨23, 1, bit u⟩, ⟨22, 1, 0#1⟩,
    ⟨21, 1, bit wb⟩, ⟨20, 1, bit l⟩, ⟨16, 4, rn⟩, ⟨12, 4, rd⟩, ⟨7, 5, 0b00001#5⟩, ⟨5, 2, sh⟩, ⟨4, 1, 1#1⟩,
    ⟨0, 4, rm⟩] rfl w
  simpa [encHalfReg, layout, BitVec.or_assoc] using h

theorem encHalfImm_eq_iff {c : Cond} {p u wb l : Bool} {rn rd : Reg} {sh : BitVec 2} {off : BitVec 8} {w : Word} :
    encHalfImm c p u wb l rn rd sh off = w ↔
      field w 28 4 = c.bits ∧ field w 25 3 = 0b000#3 ∧ w.getLsbD 24 = p ∧ w.getLsbD 23 = u ∧ w.getLsbD 22 = true ∧
        w.getLsbD 21 = wb ∧ w.getLsbD 20 = l ∧ field w 16 4 = rn ∧ field w 12 4 = rd ∧
        field w 8 4 = off.extractLsb' 4 4 ∧ w.getLsbD 7 = true ∧ field w 5 2 = sh ∧ w.getLsbD 4 = true ∧
        field w 0 4 = off.extractLsb' 0 4 := by
  have h := layout_eq_iff [⟨28, 4, c.bits⟩, ⟨25, 3, 0#3⟩, ⟨24, 1, bit p⟩, ⟨23, 1, bit u⟩, ⟨22, 1, 1#1⟩,
    ⟨21, 1, bit wb⟩, ⟨20, 1, bit l⟩, ⟨16, 4, rn⟩, ⟨12, 4, rd⟩, ⟨8, 4, off.extractLsb' 4 4⟩, ⟨7, 1, 1#1⟩, ⟨5, 2, sh⟩,
    ⟨4, 1, 1#1⟩, ⟨0, 4, off.extractLsb' 0 4⟩] rfl w
  simpa [encHalfImm, layout, BitVec.or_assoc] using h

theorem encSingleImm_eq_iff {c : Cond} {p u b wb l : Bool} {rn rd : Reg} {off : BitVec 12} {w : Word} :
    encSingleImm c p u b wb l rn rd off = w ↔
      field w 28 4 = c.bits ∧ field w 25 3 = 0b010#3 ∧ w.getLsbD 24 = p ∧ w.getLsbD 23 = u ∧ w.getLsbD 22 = b ∧
        w.getLsbD 21 = wb ∧ w.getLsbD 20 = l ∧ field w 16 4 = rn ∧ field w 12 4 = rd ∧ field w 0 12 = off := by
  have h := layout_eq_iff [⟨28, 4, c.bits⟩, ⟨25, 3, 0b010#3⟩, ⟨24, 1, bit p⟩, ⟨23, 1, bit u⟩, ⟨22, 1, bit b⟩,
    ⟨21, 1, bit wb⟩, ⟨20, 1, bit l⟩, ⟨16, 4, rn⟩, ⟨12, 4, rd⟩, ⟨0, 12, off⟩] rfl w
  simpa [encSingleImm, layout, BitVec.or_assoc] using h

theorem encSingleReg_eq_iff {c : Cond} {p u b wb l : Bool} {rn rd : Reg} {amt : BitVec 5} {sh : ShiftType} {rm : Reg}
    {w : Word} :
    encSingleReg c p u b wb l rn rd amt sh rm = w ↔
      field w 28 4 = c.bits ∧ field w 25 3 = 0b011#3 ∧ w.getLsbD 24 = p ∧ w.getLsbD 23 = u ∧ w.getLsbD 22 = b ∧
        w.getLsbD 21 = wb ∧ w.getLsbD 20 = l ∧ field w 16 4 = rn ∧ field w 12 4 = rd ∧ field w 7 5 = amt ∧
        field w 5 2 = sh.bits ∧ w.getLsbD 4 = false ∧ field w 0 4 = rm := by
  have h := layout_eq_iff [⟨28, 4, c.bits⟩, ⟨25, 3, 0b011#3⟩, ⟨24, 1, bit p⟩, ⟨23, 1, bit u⟩, ⟨22, 1, bit b⟩,
    ⟨21, 1, bit wb⟩, ⟨20, 1, bit l⟩, ⟨16, 4, rn⟩, ⟨12, 4, rd⟩, ⟨7, 5, amt⟩, ⟨5, 2, sh.bits⟩, ⟨4, 1, 0#1⟩,
    ⟨0, 4, rm⟩] rfl w
  simpa [encSingleReg, layout, BitVec.or_assoc] using h

theorem encBlock_eq_iff {c : Cond} {p u sb wb l : Bool} {rn : Reg} {list : BitVec 16} {w : Word} :
    encBlock c p u sb wb l rn list = w ↔
      field w 28 4 = c.bits ∧ field w 25 3 = 0b100#3 ∧ w.getLsbD 24 = p ∧ w.getLsbD 23 = u ∧ w.getLsbD 22 = sb ∧
        w.getLsbD 21 = wb ∧ w.getLsbD 20 = l ∧ field w 16 4 = rn ∧ field w 0 16 = list := by
  have h := layout_eq_iff [⟨28, 4, c.bits⟩, ⟨25, 3, 0b100#3⟩, ⟨24, 1, bit p⟩, ⟨23, 1, bit u⟩, ⟨22, 1, bit sb⟩,
    ⟨21, 1, bit wb⟩, ⟨20, 1, bit l⟩, ⟨16, 4, rn⟩, ⟨0, 16, list⟩] rfl w
  simpa [encBlock, layout, BitVec.or_assoc] using h

theorem encCoData_eq_iff {c : Cond} {p u n wb l : Bool} {rn crd cp : BitVec 4} {off : BitVec 8} {w : Word} :
    encCoData c p u n wb l rn crd cp off = w ↔
      field w 28 4 = c.bits ∧ field w 25 3 = 0b110#3 ∧ w.getLsbD 24 = p ∧ w.getLsbD 23 = u ∧ w.getLsbD 22 = n ∧
        w.getLsbD 21 = wb ∧ w.getLsbD 20 = l ∧ field w 16 4 = rn ∧ field w 12 4 = crd ∧ field w 8 4 = cp ∧
        field w 0 8 = off := by
  have h := layout_eq_iff [⟨28, 4, c.bits⟩, ⟨25, 3, 0b110#3⟩, ⟨24, 1, bit p⟩, ⟨23, 1, bit u⟩, ⟨22, 1, bit n⟩,
    ⟨21, 1, bit wb⟩, ⟨20, 1, bit l⟩, ⟨16, 4, rn⟩, ⟨12, 4, crd⟩, ⟨8, 4, cp⟩, ⟨0, 8, off⟩] rfl w
  simpa [encCoData, layout, BitVec.or_assoc] using h

theorem encCoReg_eq_iff {c : Cond} {opc : BitVec 3} {l : Bool} {crn rd cp : BitVec 4} {info : BitVec 3}
    {crm : BitVec 4} {w : Word} :
    encCoReg c opc l crn rd cp info crm = w ↔
      field w 28 4 = c.bits ∧ field w 24 4 = 0b1110#4 ∧ field w 21 3 = opc ∧ w.getLsbD 20 = l ∧ field w 16 4 = crn ∧
        field w 12 4 = rd ∧ field w 8 4 = cp ∧ field w 5 3 = info ∧ w.getLsbD 4 = true ∧ field w 0 4 = crm := by
  have h := layout_eq_iff [⟨28, 4, c.bits⟩, ⟨24, 4, 0b1110#4⟩, ⟨21, 3, opc⟩, ⟨20, 1, bit l⟩, ⟨16, 4, crn⟩,
    ⟨12, 4, rd⟩, ⟨8, 4, cp⟩, ⟨5, 3, info⟩, ⟨4, 1, 1#1⟩, ⟨0, 4, crm⟩] rfl w
  simpa [encCoReg, layout, BitVec.or_assoc] using h

/-! ## The instructions that are a format of their own -/

theorem encode_mrs_eq_iff {c : Cond} {spsr : Bool} {rd : Reg} {w : Word} :
    encode (.mrs c spsr rd) = w ↔
      field w 28 4 = c.bits ∧ field w 23 5 = 0b00010#5 ∧ w.getLsbD 22 = spsr ∧ field w 16 6 = 0b001111#6 ∧
        field w 12 4 = rd ∧ field w 0 12 = 0#12 := by
  have h := layout_eq_iff [⟨28, 4, c.bits⟩, ⟨23, 5, 0b00010#5⟩, ⟨22, 1, bit spsr⟩, ⟨16, 6, 0b001111#6⟩, ⟨12, 4, rd⟩,
    ⟨0, 12, 0#12⟩] rfl w
  simpa [encode, layout, BitVec.or_assoc] using h

theorem encode_msrReg_eq_iff {c : Cond} {spsr : Bool} {fields : BitVec 4} {rm : Reg} {w : Word} :
    encode (.msrReg c spsr fields rm) = w ↔
      field w 28 4 = c.bits ∧ field w 23 5 = 0b00010#5 ∧ w.getLsbD 22 = spsr ∧ field w 20 2 = 0b10#2 ∧
        field w 16 4 = fields ∧ field w 4 12 = 0xF00#12 ∧ field w 0 4 = rm := by
  have h := layout_eq_iff [⟨28, 4, c.bits⟩, ⟨23, 5, 0b00010#5⟩, ⟨22, 1, bit spsr⟩, ⟨20, 2, 0b10#2⟩, ⟨16, 4, fields⟩,
    ⟨4, 12, 0xF00#12⟩, ⟨0, 4, rm⟩] rfl w
  simpa [encode, layout, BitVec.or_assoc] using h

theorem encode_msrImm_eq_iff {c : Cond} {spsr : Bool} {fields rot : BitVec 4} {imm8 : BitVec 8} {w : Word} :
    encode (.msrImm c spsr fields rot imm8) = w ↔
      field w 28 4 = c.bits ∧ field w 23 5 = 0b00110#5 ∧ w.getLsbD 22 = spsr ∧ field w 20 2 = 0b10#2 ∧
        field w 16 4 = fields ∧ field w 12 4 = 0xF#4 ∧ field w 8 4 = rot ∧ field w 0 8 = imm8 := by
  have h := layout_eq_iff [⟨28, 4, c.bits⟩, ⟨23, 5, 0b00110#5⟩, ⟨22, 1, bit spsr⟩, ⟨20, 2, 0b10#2⟩, ⟨16, 4, fields⟩,
    ⟨12, 4, 0xF#4⟩, ⟨8, 4, rot⟩, ⟨0, 8, imm8⟩] rfl w
  simpa [encode, layout, BitVec.or_assoc] using h

theorem encode_bx_eq_iff {c : Cond} {rn : Reg} {w : Word} :
    encode (.bx c rn) = w ↔ field w 28 4 = c.bits ∧ field w 4 24 = 0x12FFF1#24 ∧ field w 0 4 = rn := by
  have h := layout_eq_iff [⟨28, 4, c.bits⟩, ⟨4, 24, 0x12FFF1#24⟩, ⟨0, 4, rn⟩] rfl w
  simpa [encode, layout, BitVec.or_assoc] using h

theorem encode_b_eq_iff {c : Cond} {off : BitVec 24} {w : Word} :
    encode (.b c off) = w ↔ field w 28 4 = c.bits ∧ field w 24 4 = 0b1010#4 ∧ field w 0 24 = off := by
  have h := layout_eq_iff [⟨28, 4, c.bits⟩, ⟨24, 4, 0b1010#4⟩, ⟨0, 24, off⟩] rfl w
  simpa [encode, layout, BitVec.or_assoc] using h

theorem encode_bl_eq_iff {c : Cond} {off : BitVec 24} {w : Word} :
    encode (.bl c off) = w ↔ field w 28 4 = c.bits ∧ field w 24 4 = 0b1011#4 ∧ field w 0 24 = off := by
  have h := layout_eq_iff [⟨28, 4, c.bits⟩, ⟨24, 4, 0b1011#4⟩, ⟨0, 24, off⟩] rfl w
  simpa [encode, layout, BitVec.or_assoc] using h

theorem encode_cdp_eq_iff {c : Cond} {opc crn crd cp : BitVec 4} {info : BitVec 3} {crm : BitVec 4} {w : Word} :
    encode (.cdp c opc crn crd cp info crm) = w ↔
      field w 28 4 = c.bits ∧ field w 24 4 = 0b1110#4 ∧ field w 20 4 = opc ∧ field w 16 4 = crn ∧
        field w 12 4 = crd ∧ field w 8 4 = cp ∧ field w 5 3 = info ∧ w.getLsbD 4 = false ∧ field w 0 4 = crm := by
  have h := layout_eq_iff [⟨28, 4, c.bits⟩, ⟨24, 4, 0b1110#4⟩, ⟨20, 4, opc⟩, ⟨16, 4, crn⟩, ⟨12, 4, crd⟩, ⟨8, 4, cp⟩,
    ⟨5, 3, info⟩, ⟨4, 1, 0#1⟩, ⟨0, 4, crm⟩] rfl w
  simpa [encode, layout, BitVec.or_assoc] using h

theorem encode_swi_eq_iff {c : Cond} {comment : BitVec 24} {w : Word} :
    encode (.swi c comment) = w ↔ field w 28 4 = c.bits ∧ field w 24 4 = 0b1111#4 ∧ field w 0 24 = comment := by
  have h := layout_eq_iff [⟨28, 4, c.bits⟩, ⟨24, 4, 0b1111#4⟩, ⟨0, 24, comment⟩] rfl w
  simpa [encode, layout, BitVec.or_assoc] using h

theorem encode_undefined_eq_iff {c : Cond} {hi : BitVec 20} {lo : BitVec 4} {w : Word} :
    encode (.undefined c hi lo) = w ↔
      field w 28 4 = c.bits ∧ field w 25 3 = 0b011#3 ∧ field w 5 20 = hi ∧ w.getLsbD 4 = true ∧ field w 0 4 = lo := by
  have h := layout_eq_iff [⟨28, 4, c.bits⟩, ⟨25, 3, 0b011#3⟩, ⟨5, 20, hi⟩, ⟨4, 1, 1#1⟩, ⟨0, 4, lo⟩] rfl w
  simpa [encode, layout, BitVec.or_assoc] using h

end Sys2Proof
end

section
/-! PROOFS. Decoder and encoder agree (30_encoding.md R72, R89, R90): the decoder reads an instruction from a word exactly
where the word has the fields of that instruction's format. -/

namespace Sys2Proof

open Machine

/-! ## Parts of a field -/

/-- Part of a field is the same part of its value. -/
theorem field_sub {w : Word} {lo k : Nat} {x : BitVec k} (h : field w lo k = x) (l n : Nat) (hl : l + n ≤ k) :
    field w (lo + l) n = x.extractLsb' l n := by
  subst h
  refine BitVec.eq_of_getLsbD_eq fun i hi => ?_
  simp [hi, show l + i < k by omega, Nat.add_assoc]

/-- A bit of a field is that bit of its value. -/
theorem getLsbD_of_field {w : Word} {lo k : Nat} {x : BitVec k} (h : field w lo k = x) (i : Nat) (hi : i < k) :
    w.getLsbD (lo + i) = x.getLsbD i := by
  subst h
  rw [getLsbD_field, decide_eq_true hi, Bool.true_and]

theorem field_two {w : Word} {lo : Nat} {x : BitVec 2} (hupper : w.getLsbD (lo + 1) = x.getLsbD 1)
    (hlower : w.getLsbD lo = x.getLsbD 0) : field w lo 2 = x := by
  refine BitVec.eq_of_getLsbD_eq fun i hi => ?_
  rcases (by omega : i = 0 ∨ i = 1) with rfl | rfl
  · simpa using hlower
  · simpa using hupper

/-- The nibbles of an offset joined, read back (R211). -/
theorem extract_nibbles (hi lo : BitVec 4) :
    (place 4 hi ||| place 0 lo : BitVec 8).extractLsb' 4 4 = hi ∧
      (place 4 hi ||| place 0 lo : BitVec 8).extractLsb' 0 4 = lo := by
  revert hi lo
  decide

/-- An offset is its nibbles joined (R211). -/
theorem join_nibbles (off : BitVec 8) :
    (place 4 (off.extractLsb' 4 4) ||| place 0 (off.extractLsb' 0 4) : BitVec 8) = off := by
  revert off
  decide

/-! ## The condition, the shift type and bits 27:25 -/

theorem bits_of_ofBits {b : BitVec 4} {c : Cond} (h : Cond.ofBits b = some c) : b = c.bits := by
  revert h
  cases c <;> revert b <;> decide

theorem bits_shiftType_ofBits (b : BitVec 2) : (ShiftType.ofBits b).bits = b := by
  revert b
  decide

/-- A word decodes to an instruction where its condition is one and its body is that of a row. -/
theorem decode_eq_ok_iff {w : Word} {i : Instr} :
    decode w = .ok i ↔ ∃ c : Cond, field w 28 4 = c.bits ∧ decodeBody c w = some i := by
  constructor
  · intro h
    unfold decode at h
    split at h
    · cases h
    · rename_i c hc
      split at h
      · rename_i hbody
        cases h
        exact ⟨c, bits_of_ofBits hc, hbody⟩
      · cases h
  · rintro ⟨c, hc, hbody⟩
    simp only [decode, hc, ofBits_cond_bits, hbody]

section
variable {c : Cond} {w : Word}

theorem decodeBody_000 (h : field w 25 3 = 0b000#3) : decodeBody c w = decode000 c w := by rw [decodeBody, h]; rfl
theorem decodeBody_001 (h : field w 25 3 = 0b001#3) : decodeBody c w = decode001 c w := by rw [decodeBody, h]; rfl
theorem decodeBody_010 (h : field w 25 3 = 0b010#3) : decodeBody c w = decode010 c w := by rw [decodeBody, h]; rfl
theorem decodeBody_011 (h : field w 25 3 = 0b011#3) : decodeBody c w = decode011 c w := by rw [decodeBody, h]; rfl
theorem decodeBody_100 (h : field w 25 3 = 0b100#3) : decodeBody c w = decode100 c w := by rw [decodeBody, h]; rfl
theorem decodeBody_101 (h : field w 25 3 = 0b101#3) : decodeBody c w = decode101 c w := by rw [decodeBody, h]; rfl
theorem decodeBody_110 (h : field w 25 3 = 0b110#3) : decodeBody c w = decode110 c w := by rw [decodeBody, h]; rfl
theorem decodeBody_111 (h : field w 25 3 = 0b111#3) : decodeBody c w = decode111 c w := by rw [decodeBody, h]; rfl

/-! ## Data processing: one table for the three forms of operand 2 (R117) -/

/-- The row of an opcode: TST, TEQ, CMP and CMN need S = 1 and Rd = 0000, MOV and MVN Rn = 0000 (R90 (b), R117). -/
def dpRow (c : Cond) (op : BitVec 4) (sb : Bool) (rn rd : Reg) (x : Op2) : Option Instr :=
  match op.toNat with
  | 0 => some (DpOp.and.instr c sb rn rd x)
  | 1 => some (DpOp.eor.instr c sb rn rd x)
  | 2 => some (DpOp.sub.instr c sb rn rd x)
  | 3 => some (DpOp.rsb.instr c sb rn rd x)
  | 4 => some (DpOp.add.instr c sb rn rd x)
  | 5 => some (DpOp.adc.instr c sb rn rd x)
  | 6 => some (DpOp.sbc.instr c sb rn rd x)
  | 7 => some (DpOp.rsc.instr c sb rn rd x)
  | 8 => if sb && rd == 0#4 then some (TestOp.tst.instr c rn x) else none
  | 9 => if sb && rd == 0#4 then some (TestOp.teq.instr c rn x) else none
  | 10 => if sb && rd == 0#4 then some (TestOp.cmp.instr c rn x) else none
  | 11 => if sb && rd == 0#4 then some (TestOp.cmn.instr c rn x) else none
  | 12 => some (DpOp.orr.instr c sb rn rd x)
  | 13 => if rn == 0#4 then some (DpOp.mov.instr c sb rn rd x) else none
  | 14 => some (DpOp.bic.instr c sb rn rd x)
  | _ => if rn == 0#4 then some (DpOp.mvn.instr c sb rn rd x) else none

/-- The format of each form of operand 2 (R79, R83). -/
def encDp (c : Cond) (op : BitVec 4) (sb : Bool) (rn rd : Reg) (x : Op2) : Word :=
  match x with
  | .imm rot imm8 => encDpImm c op sb rn rd rot imm8
  | .shiftImm amt sh rm => encDpShiftImm c op sb rn rd amt sh rm
  | .shiftReg rs sh rm => encDpShiftReg c op sb rn rd rs sh rm

theorem decodeDpImm_eq_dpRow : decodeDpImm c w =
    dpRow c (field w 21 4) (w.getLsbD 20) (field w 16 4) (field w 12 4) (.imm (field w 8 4) (field w 0 8)) := rfl

theorem decodeDpShiftImm_eq_dpRow : decodeDpShiftImm c w =
    dpRow c (field w 21 4) (w.getLsbD 20) (field w 16 4) (field w 12 4)
      (.shiftImm (field w 7 5) (ShiftType.ofBits (field w 5 2)) (field w 0 4)) := rfl

theorem decodeDpShiftReg_eq_dpRow : decodeDpShiftReg c w =
    dpRow c (field w 21 4) (w.getLsbD 20) (field w 16 4) (field w 12 4)
      (.shiftReg (field w 8 4) (ShiftType.ofBits (field w 5 2)) (field w 0 4)) := rfl

/-- Data processing encoded decodes to its row, where bits 24:23 and 20 are not those of a PSR transfer (R89). -/
theorem decodeBody_encDp {op : BitVec 4} {sb : Bool} {rn rd : Reg} {x : Op2} (hw : encDp c op sb rn rd x = w)
    (hop : (op.extractLsb' 2 2 == 0b10#2 && !sb) = false) :
    field w 28 4 = c.bits ∧ decodeBody c w = dpRow c op sb rn rd x := by
  cases x with
  | imm rot imm8 =>
    obtain ⟨hc, h25, h21, rfl, rfl, rfl, rfl, rfl⟩ := encDpImm_eq_iff.mp hw
    rw [← show field w 23 2 = op.extractLsb' 2 2 from field_sub h21 2 2 (by decide)] at hop
    rw [decodeBody_001 h25, decode001, hop, decodeDpImm_eq_dpRow, h21]
    exact ⟨hc, rfl⟩
  | shiftImm amt sh rm =>
    obtain ⟨hc, h25, h21, rfl, rfl, rfl, rfl, hsh, h4, rfl⟩ := encDpShiftImm_eq_iff.mp hw
    rw [← show field w 23 2 = op.extractLsb' 2 2 from field_sub h21 2 2 (by decide)] at hop
    rw [decodeBody_000 h25, decode000, hop, h4, Bool.and_false, decodeDpShiftImm_eq_dpRow, h21, hsh,
      ofBits_shiftType_bits]
    exact ⟨hc, rfl⟩
  | shiftReg rs sh rm =>
    obtain ⟨hc, h25, h21, rfl, rfl, rfl, rfl, h7, hsh, h4, rfl⟩ := encDpShiftReg_eq_iff.mp hw
    rw [← show field w 23 2 = op.extractLsb' 2 2 from field_sub h21 2 2 (by decide)] at hop
    rw [decodeBody_000 h25, decode000, hop, h7, h4, decodeDpShiftReg_eq_dpRow, h21, hsh, ofBits_shiftType_bits]
    exact ⟨hc, rfl⟩

/-! ## The PSR transfers, the multiplies, the swaps and the halfword transfers (R89) -/

theorem psrTransfer (h23 : field w 23 2 = 0b10#2) (h20 : w.getLsbD 20 = false) :
    (field w 23 2 == 0b10#2 && !w.getLsbD 20) = true := by rw [h23, h20]; rfl

theorem decodeBody_msrImm (h25 : field w 25 3 = 0b001#3) (h23 : field w 23 2 = 0b10#2) (h20 : w.getLsbD 20 = false) :
    decodeBody c w = decodeMsrImm c w := by
  rw [decodeBody_001 h25, decode001, psrTransfer h23 h20, if_pos rfl]

theorem decodeBody_misc (h25 : field w 25 3 = 0b000#3) (h23 : field w 23 2 = 0b10#2) (h20 : w.getLsbD 20 = false)
    (h7 : w.getLsbD 7 = false) : decodeBody c w = decodeMisc c w := by
  rw [decodeBody_000 h25, decode000, psrTransfer h23 h20, h7]
  rfl

theorem decodeBody_multiplySwap (h25 : field w 25 3 = 0b000#3) (h7 : w.getLsbD 7 = true) (h5 : field w 5 2 = 0b00#2)
    (h4 : w.getLsbD 4 = true) : decodeBody c w = decodeMultiplySwap c w := by
  rw [decodeBody_000 h25, decode000, h7, h4, h5]
  rfl

theorem decodeBody_half (h25 : field w 25 3 = 0b000#3) (h7 : w.getLsbD 7 = true) (h5 : field w 5 2 ≠ 0b00#2)
    (h4 : w.getLsbD 4 = true) : decodeBody c w = decodeHalf c w := by
  rw [decodeBody_000 h25, decode000, h7, h4, beq_false_of_ne h5]
  rfl

/-- The opcode of a multiply is what is read from bits 24:23, 22 and 21, and bits 27:25 are 000. -/
theorem multiply_op_iff {op : BitVec 7} :
    field w 21 7 = op ↔ field w 25 3 = op.extractLsb' 4 3 ∧ field w 23 2 = op.extractLsb' 2 2 ∧
      w.getLsbD 22 = op.getLsbD 1 ∧ w.getLsbD 21 = op.getLsbD 0 := by
  constructor
  · intro h
    exact ⟨field_sub h 4 3 (by decide), field_sub h 2 2 (by decide), getLsbD_of_field h 1 (by decide),
      getLsbD_of_field h 0 (by decide)⟩
  · rintro ⟨h25, h23, h22, h21⟩
    refine (field_split 3 4 rfl).mpr ⟨h25, (field_split 2 2 rfl).mpr ⟨?_, field_two ?_ ?_⟩⟩
    · refine h23.trans (BitVec.eq_of_getLsbD_eq fun i hi => ?_)
      simp
    · simpa using h22
    · simpa using h21

/-- Bits 7:4 = 1001, as the decoder reads them. -/
theorem multiply_mark_iff :
    field w 4 4 = 0b1001#4 ↔ w.getLsbD 7 = true ∧ field w 5 2 = 0b00#2 ∧ w.getLsbD 4 = true := by
  constructor
  · intro h
    exact ⟨getLsbD_of_field h 3 (by decide), field_sub h 1 2 (by decide), getLsbD_of_field h 0 (by decide)⟩
  · rintro ⟨h7, h5, h4⟩
    refine (field_split 1 3 rfl).mpr ⟨?_, (field_split 2 1 rfl).mpr ⟨h5, ?_⟩⟩
    · rw [field_one, h7]; rfl
    · rw [field_one, h4]; rfl

theorem decodeBody_multiply {op : BitVec 7} {i : Instr} (hop : field w 21 7 = op) (h0 : op.extractLsb' 4 3 = 0b000#3)
    (hmark : field w 4 4 = 0b1001#4)
    (h : field w 23 2 = op.extractLsb' 2 2 → w.getLsbD 22 = op.getLsbD 1 → w.getLsbD 21 = op.getLsbD 0 →
      decodeMultiplySwap c w = some i) : decodeBody c w = some i := by
  obtain ⟨h25, h23, h22, h21⟩ := multiply_op_iff.mp hop
  obtain ⟨h7, h5, h4⟩ := multiply_mark_iff.mp hmark
  exact (decodeBody_multiplySwap (h25.trans h0) h7 h5 h4).trans (h h23 h22 h21)

end

end Sys2Proof
end

section
/-! PROOFS. Every instruction decodes from its encoding (30_encoding.md R72, R86, R89). -/

namespace Sys2Proof

section
variable {c : Cond} {w : Word}

/-! ## Decoding an encoding -/

theorem decodeMisc_bx (h : field w 4 24 = 0x12FFF1#24) : decodeMisc c w = some (.bx c (field w 0 4)) := by
  rw [decodeMisc, h]; rfl

theorem decodeMisc_mrs (h16 : field w 16 6 = 0b001111#6) (h0 : field w 0 12 = 0#12) :
    decodeMisc c w = some (.mrs c (w.getLsbD 22) (field w 12 4)) := by
  have hbx : field w 4 24 ≠ 0x12FFF1#24 := fun h => by
    have h1 : field w 4 4 = 1#4 := field_sub h 0 4 (by decide)
    have h2 : field w 4 4 = 0#4 := field_sub h0 4 4 (by decide)
    exact absurd (h1.symm.trans h2) (by decide)
  rw [decodeMisc, beq_false_of_ne hbx, h16, h0]; rfl

theorem decodeMisc_msrReg (h20 : field w 20 2 = 0b10#2) (h4 : field w 4 12 = 0xF00#12) :
    decodeMisc c w = some (.msrReg c (w.getLsbD 22) (field w 16 4) (field w 0 4)) := by
  have hbx : field w 4 24 ≠ 0x12FFF1#24 := fun h => by
    have h1 : field w 4 12 = 0xFF1#12 := field_sub h 0 12 (by decide)
    exact absurd (h1.symm.trans h4) (by decide)
  have hmrs : field w 16 6 ≠ 0b001111#6 := fun h => by
    have h1 : field w 20 2 = 0b00#2 := field_sub h 4 2 (by decide)
    exact absurd (h1.symm.trans h20) (by decide)
  rw [decodeMisc, beq_false_of_ne hbx, beq_false_of_ne hmrs, h20, h4]; rfl

end

/-- An encoding has the condition of its instruction, and its body decodes to it. -/
theorem decodeBody_encode (i : Instr) (w : Word) (hw : encode i = w) :
    field w 28 4 = i.cond.bits ∧ decodeBody i.cond w = some i := by
  cases i with
  | andImm | eorImm | subImm | rsbImm | addImm | adcImm | sbcImm | rscImm | tstImm | teqImm | cmpImm | cmnImm | orrImm
  | movImm | bicImm | mvnImm => exact decodeBody_encDp (x := .imm _ _) hw rfl
  | andShiftImm | eorShiftImm | subShiftImm | rsbShiftImm | addShiftImm | adcShiftImm | sbcShiftImm | rscShiftImm
  | tstShiftImm | teqShiftImm | cmpShiftImm | cmnShiftImm | orrShiftImm | movShiftImm | bicShiftImm | mvnShiftImm =>
    exact decodeBody_encDp (x := .shiftImm _ _ _) hw rfl
  | andShiftReg | eorShiftReg | subShiftReg | rsbShiftReg | addShiftReg | adcShiftReg | sbcShiftReg | rscShiftReg
  | tstShiftReg | teqShiftReg | cmpShiftReg | cmnShiftReg | orrShiftReg | movShiftReg | bicShiftReg | mvnShiftReg =>
    exact decodeBody_encDp (x := .shiftReg _ _ _) hw rfl
  | mrs =>
    obtain ⟨hc, h23, rfl, h16, rfl, h0⟩ := encode_mrs_eq_iff.mp hw
    exact ⟨hc, (decodeBody_misc (field_sub h23 2 3 (by decide)) (field_sub h23 0 2 (by decide))
      (getLsbD_of_field h16 4 (by decide)) (getLsbD_of_field h0 7 (by decide))).trans (decodeMisc_mrs h16 h0)⟩
  | msrReg =>
    obtain ⟨hc, h23, rfl, h20, rfl, h4, rfl⟩ := encode_msrReg_eq_iff.mp hw
    exact ⟨hc, (decodeBody_misc (field_sub h23 2 3 (by decide)) (field_sub h23 0 2 (by decide))
      (getLsbD_of_field h20 0 (by decide)) (getLsbD_of_field h4 3 (by decide))).trans (decodeMisc_msrReg h20 h4)⟩
  | bx =>
    obtain ⟨hc, h4, rfl⟩ := encode_bx_eq_iff.mp hw
    exact ⟨hc, (decodeBody_misc (field_sub h4 21 3 (by decide)) (field_sub h4 19 2 (by decide))
      (getLsbD_of_field h4 16 (by decide)) (getLsbD_of_field h4 3 (by decide))).trans (decodeMisc_bx h4)⟩
  | msrImm =>
    obtain ⟨hc, h23, rfl, h20, rfl, h12, rfl, rfl⟩ := encode_msrImm_eq_iff.mp hw
    have h21 : w.getLsbD 21 = true := getLsbD_of_field h20 1 (by decide)
    exact ⟨hc, (decodeBody_msrImm (field_sub h23 2 3 (by decide)) (field_sub h23 0 2 (by decide))
      (getLsbD_of_field h20 0 (by decide))).trans (by rw [decodeMsrImm, h21, h12]; rfl)⟩
  | mul =>
    obtain ⟨hc, hop, rfl, rfl, hlo, rfl, hmark, rfl⟩ := encMultiply_eq_iff.mp hw
    exact ⟨hc, decodeBody_multiply hop (by decide) hmark fun h23 h22 h21 => by
      rw [decodeMultiplySwap, h23, h22, h21, hlo]; rfl⟩
  | mla | umull | umlal | smull | smlal =>
    obtain ⟨hc, hop, rfl, rfl, rfl, rfl, hmark, rfl⟩ := encMultiply_eq_iff.mp hw
    exact ⟨hc, decodeBody_multiply hop (by decide) hmark fun h23 h22 h21 => by
      rw [decodeMultiplySwap, h23, h22, h21]; rfl⟩
  | swp | swpb =>
    obtain ⟨hc, h23, h22, h20, rfl, rfl, h4, rfl⟩ := encSwap_eq_iff.mp hw
    have hlong : field w 23 2 = 0b10#2 := field_sub h23 0 2 (by decide)
    have hrs : field w 8 4 = 0#4 := field_sub h4 4 4 (by decide)
    exact ⟨hc, (decodeBody_multiplySwap (field_sub h23 2 3 (by decide)) (getLsbD_of_field h4 3 (by decide))
      (field_sub h4 1 2 (by decide)) (getLsbD_of_field h4 0 (by decide))).trans
      (by rw [decodeMultiplySwap, hlong, h20, hrs, h22]; rfl)⟩
  | ldrhReg | strhReg | ldrsbReg | ldrshReg =>
    obtain ⟨hc, h25, rfl, rfl, h22, rfl, h20, rfl, rfl, h7, h5, h4, rfl⟩ := encHalfReg_eq_iff.mp hw
    have hzero : field w 8 4 = 0#4 := field_sub h7 1 4 (by decide)
    exact ⟨hc, (decodeBody_half h25 (getLsbD_of_field h7 0 (by decide)) (by rw [h5]; decide) h4).trans
      (by rw [decodeHalf, h22, hzero, h20, h5]; rfl)⟩
  | ldrhImm | strhImm | ldrsbImm | ldrshImm =>
    obtain ⟨hc, h25, rfl, rfl, h22, rfl, h20, rfl, rfl, h8, h7, h5, h4, h0⟩ := encHalfImm_eq_iff.mp hw
    exact ⟨hc, (decodeBody_half h25 h7 (by rw [h5]; decide) h4).trans
      (by rw [decodeHalf, h22, h20, h5, h8, h0, join_nibbles]; rfl)⟩
  | ldrImm | strImm | ldrbImm | strbImm =>
    obtain ⟨hc, h25, rfl, rfl, h22, rfl, h20, rfl, rfl, rfl⟩ := encSingleImm_eq_iff.mp hw
    exact ⟨hc, (decodeBody_010 h25).trans (by rw [decode010, h22, h20]; rfl)⟩
  | ldrReg | strReg | ldrbReg | strbReg =>
    obtain ⟨hc, h25, rfl, rfl, h22, rfl, h20, rfl, rfl, rfl, hsh, h4, rfl⟩ := encSingleReg_eq_iff.mp hw
    exact ⟨hc, (decodeBody_011 h25).trans (by rw [decode011, h22, h20, h4, hsh, ofBits_shiftType_bits]; rfl)⟩
  | ldmia | ldmib | ldmda | ldmdb | stmia | stmib | stmda | stmdb =>
    obtain ⟨hc, h25, h24, h23, rfl, rfl, h20, rfl, rfl⟩ := encBlock_eq_iff.mp hw
    exact ⟨hc, (decodeBody_100 h25).trans (by rw [decode100, h24, h23, h20]; rfl)⟩
  | b =>
    obtain ⟨hc, h24, rfl⟩ := encode_b_eq_iff.mp hw
    have hlink : w.getLsbD 24 = false := getLsbD_of_field h24 0 (by decide)
    exact ⟨hc, (decodeBody_101 (field_sub h24 1 3 (by decide))).trans (by rw [decode101, hlink]; rfl)⟩
  | bl =>
    obtain ⟨hc, h24, rfl⟩ := encode_bl_eq_iff.mp hw
    have hlink : w.getLsbD 24 = true := getLsbD_of_field h24 0 (by decide)
    exact ⟨hc, (decodeBody_101 (field_sub h24 1 3 (by decide))).trans (by rw [decode101, hlink]; rfl)⟩
  | ldc | stc =>
    obtain ⟨hc, h25, rfl, rfl, rfl, rfl, h20, rfl, rfl, rfl, rfl⟩ := encCoData_eq_iff.mp hw
    exact ⟨hc, (decodeBody_110 h25).trans (by rw [decode110, h20]; rfl)⟩
  | cdp =>
    obtain ⟨hc, h24, rfl, rfl, rfl, rfl, rfl, h4, rfl⟩ := encode_cdp_eq_iff.mp hw
    have hswi : w.getLsbD 24 = false := getLsbD_of_field h24 0 (by decide)
    exact ⟨hc, (decodeBody_111 (field_sub h24 1 3 (by decide))).trans (by rw [decode111, hswi, h4]; rfl)⟩
  | mrc | mcr =>
    obtain ⟨hc, h24, rfl, h20, rfl, rfl, rfl, rfl, h4, rfl⟩ := encCoReg_eq_iff.mp hw
    have hswi : w.getLsbD 24 = false := getLsbD_of_field h24 0 (by decide)
    exact ⟨hc, (decodeBody_111 (field_sub h24 1 3 (by decide))).trans (by rw [decode111, hswi, h4, h20]; rfl)⟩
  | swi =>
    obtain ⟨hc, h24, rfl⟩ := encode_swi_eq_iff.mp hw
    have hswi : w.getLsbD 24 = true := getLsbD_of_field h24 0 (by decide)
    exact ⟨hc, (decodeBody_111 (field_sub h24 1 3 (by decide))).trans (by rw [decode111, hswi]; rfl)⟩
  | undefined =>
    obtain ⟨hc, h25, rfl, h4, rfl⟩ := encode_undefined_eq_iff.mp hw
    exact ⟨hc, (decodeBody_011 h25).trans (by rw [decode011, h4]; rfl)⟩

/-- Settles O4: the fields of an encoding send the decoder to the row of its instruction. -/
theorem decodeOfEncode : Obligations.DecodeOfEncode := fun i =>
  decode_eq_ok_iff.mpr ⟨i.cond, decodeBody_encode i _ rfl⟩

end Sys2Proof
end

section
/-! PROOFS. Every word that decodes is the encoding of what it decodes to (30_encoding.md R72, R89, R90): one lemma per
decoder, in the order of R89. -/

namespace Sys2Proof

open Machine

section
variable {c : Cond} {w : Word} {i : Instr}

theorem eq_ofNat_of_toNat {n k : Nat} {x : BitVec n} (h : x.toNat = k) : x = BitVec.ofNat n k := by
  rw [← h, BitVec.ofNat_toNat, BitVec.setWidth_eq]

/-- The instruction of a row is encoded with the row's opcode and operands. -/
theorem encode_of_dpRow {op : BitVec 4} {sb : Bool} {rn rd : Reg} {x : Op2} (h : dpRow c op sb rn rd x = some i) :
    encode i = encDp c op sb rn rd x := by
  unfold dpRow at h
  split at h <;> rename_i hop <;>
    simp only [Option.some.injEq, Option.ite_none_right_eq_some, Bool.and_eq_true, beq_iff_eq] at h
  case h_1 | h_2 | h_3 | h_4 | h_5 | h_6 | h_7 | h_8 | h_13 | h_15 =>
    obtain rfl := eq_ofNat_of_toNat hop
    subst h
    cases x <;> rfl
  case h_9 | h_10 | h_11 | h_12 =>
    obtain rfl := eq_ofNat_of_toNat hop
    obtain ⟨⟨rfl, rfl⟩, rfl⟩ := h
    cases x <;> rfl
  case h_14 =>
    obtain rfl := eq_ofNat_of_toNat hop
    obtain ⟨rfl, rfl⟩ := h
    cases x <;> rfl
  case h_16 =>
    obtain rfl : op = 15#4 := by simp only [imp_false] at *; bv_omega
    obtain ⟨rfl, rfl⟩ := h
    cases x <;> rfl

theorem encode_of_decodeDpImm (hc : field w 28 4 = c.bits) (h25 : field w 25 3 = 0b001#3)
    (h : decodeDpImm c w = some i) : encode i = w :=
  (encode_of_dpRow (decodeDpImm_eq_dpRow.symm.trans h)).trans
    (encDpImm_eq_iff.mpr ⟨hc, h25, rfl, rfl, rfl, rfl, rfl, rfl⟩)

theorem encode_of_decodeDpShiftImm (hc : field w 28 4 = c.bits) (h25 : field w 25 3 = 0b000#3)
    (h4 : w.getLsbD 4 = false) (h : decodeDpShiftImm c w = some i) : encode i = w :=
  (encode_of_dpRow (decodeDpShiftImm_eq_dpRow.symm.trans h)).trans (encDpShiftImm_eq_iff.mpr
    ⟨hc, h25, rfl, rfl, rfl, rfl, rfl, (bits_shiftType_ofBits _).symm, h4, rfl⟩)

theorem encode_of_decodeDpShiftReg (hc : field w 28 4 = c.bits) (h25 : field w 25 3 = 0b000#3)
    (h7 : w.getLsbD 7 = false) (h4 : w.getLsbD 4 = true) (h : decodeDpShiftReg c w = some i) : encode i = w :=
  (encode_of_dpRow (decodeDpShiftReg_eq_dpRow.symm.trans h)).trans (encDpShiftReg_eq_iff.mpr
    ⟨hc, h25, rfl, rfl, rfl, rfl, rfl, h7, (bits_shiftType_ofBits _).symm, h4, rfl⟩)

/-! ## The other formats -/

theorem encode_of_decodeMisc (hc : field w 28 4 = c.bits) (h25 : field w 25 3 = 0b000#3)
    (h23 : field w 23 2 = 0b10#2) (h : decodeMisc c w = some i) : encode i = w := by
  have hpsr : field w 23 5 = 0b00010#5 := (field_split 3 2 rfl).mpr ⟨h25, h23⟩
  unfold decodeMisc at h
  split at h
  next hbx =>
    cases h
    exact encode_bx_eq_iff.mpr ⟨hc, beq_iff_eq.mp hbx, rfl⟩
  split at h
  next hmrs =>
    cases h
    simp only [Bool.and_eq_true, beq_iff_eq] at hmrs
    obtain ⟨h16, h0⟩ := hmrs
    exact encode_mrs_eq_iff.mpr ⟨hc, hpsr, rfl, h16, rfl, h0⟩
  split at h
  next hmsr =>
    cases h
    simp only [Bool.and_eq_true, beq_iff_eq] at hmsr
    obtain ⟨h20, h4⟩ := hmsr
    exact encode_msrReg_eq_iff.mpr ⟨hc, hpsr, rfl, h20, rfl, h4, rfl⟩
  · cases h

theorem encode_of_decodeMsrImm (hc : field w 28 4 = c.bits) (h25 : field w 25 3 = 0b001#3)
    (h23 : field w 23 2 = 0b10#2) (h20 : w.getLsbD 20 = false) (h : decodeMsrImm c w = some i) : encode i = w := by
  simp only [decodeMsrImm, Option.ite_none_right_eq_some, Bool.and_eq_true, beq_iff_eq, Option.some.injEq] at h
  obtain ⟨⟨h21, h12⟩, rfl⟩ := h
  exact encode_msrImm_eq_iff.mpr
    ⟨hc, (field_split 3 2 rfl).mpr ⟨h25, h23⟩, rfl, field_two h21 h20, rfl, h12, rfl, rfl⟩

theorem encode_of_decodeMultiplySwap (hc : field w 28 4 = c.bits) (h25 : field w 25 3 = 0b000#3)
    (hmark : field w 4 4 = 0b1001#4) (h : decodeMultiplySwap c w = some i) : encode i = w := by
  unfold decodeMultiplySwap at h
  split at h
  next h23 =>
    replace h23 : field w 23 2 = 0b00#2 := eq_ofNat_of_toNat h23
    split at h
    · cases h
    next h22 =>
    replace h22 := Bool.eq_false_iff.mpr h22
    split at h
    next h21 =>
      cases h
      exact encMultiply_eq_iff.mpr ⟨hc, multiply_op_iff.mpr ⟨h25, h23, h22, h21⟩, rfl, rfl, rfl, rfl, hmark, rfl⟩
    next h21 =>
      simp only [Option.ite_none_right_eq_some, Option.some.injEq, beq_iff_eq] at h
      obtain ⟨hlo, rfl⟩ := h
      exact encMultiply_eq_iff.mpr
        ⟨hc, multiply_op_iff.mpr ⟨h25, h23, h22, Bool.eq_false_iff.mpr h21⟩, rfl, rfl, hlo, rfl, hmark, rfl⟩
  next h23 =>
    replace h23 : field w 23 2 = 0b01#2 := eq_ofNat_of_toNat h23
    split at h <;> rename_i h22 h21 <;> cases h <;>
      exact encMultiply_eq_iff.mpr ⟨hc, multiply_op_iff.mpr ⟨h25, h23, h22, h21⟩, rfl, rfl, rfl, rfl, hmark, rfl⟩
  next h23 =>
    replace h23 : field w 23 2 = 0b10#2 := eq_ofNat_of_toNat h23
    simp only [Option.ite_none_right_eq_some, Bool.and_eq_true, beq_iff_eq] at h
    obtain ⟨⟨h20, hrs⟩, h⟩ := h
    have hshort : field w 23 5 = 0b00010#5 := (field_split 3 2 rfl).mpr ⟨h25, h23⟩
    have h4 : field w 4 8 = 0b00001001#8 := (field_split 4 4 rfl).mpr ⟨hrs, hmark⟩
    split at h
    next h22 =>
      cases h
      exact encSwap_eq_iff.mpr ⟨hc, hshort, h22, h20, rfl, rfl, h4, rfl⟩
    next h22 =>
      cases h
      exact encSwap_eq_iff.mpr ⟨hc, hshort, Bool.eq_false_iff.mpr h22, h20, rfl, rfl, h4, rfl⟩
  · cases h

theorem encode_of_decodeHalf (hc : field w 28 4 = c.bits) (h25 : field w 25 3 = 0b000#3) (h7 : w.getLsbD 7 = true)
    (h4 : w.getLsbD 4 = true) (h : decodeHalf c w = some i) : encode i = w := by
  unfold decodeHalf at h
  split at h
  next h22 =>
    obtain ⟨hhi, hlo⟩ := extract_nibbles (field w 8 4) (field w 0 4)
    split at h <;> rename_i h20 h5 <;> cases h <;>
      exact encHalfImm_eq_iff.mpr ⟨hc, h25, rfl, rfl, h22, rfl, h20, rfl, rfl, hhi.symm, h7, eq_ofNat_of_toNat h5,
        h4, hlo.symm⟩
  next h22 =>
    replace h22 := Bool.eq_false_iff.mpr h22
    simp only [Option.ite_none_right_eq_some, beq_iff_eq] at h
    obtain ⟨h8, h⟩ := h
    have hmark : field w 7 5 = 0b00001#5 := (field_split 4 1 rfl).mpr ⟨h8, by rw [field_one, h7]; rfl⟩
    split at h <;> rename_i h20 h5 <;> cases h <;>
      exact encHalfReg_eq_iff.mpr ⟨hc, h25, rfl, rfl, h22, rfl, h20, rfl, rfl, hmark, eq_ofNat_of_toNat h5, h4, rfl⟩

theorem encode_of_decode000 (hc : field w 28 4 = c.bits) (h25 : field w 25 3 = 0b000#3) (h : decode000 c w = some i) :
    encode i = w := by
  unfold decode000 at h
  split at h
  next h74 =>
    obtain ⟨h7, h4⟩ := Bool.and_eq_true_iff.mp h74
    split at h
    next h5 => exact encode_of_decodeMultiplySwap hc h25 (multiply_mark_iff.mpr ⟨h7, beq_iff_eq.mp h5, h4⟩) h
    next h5 => exact encode_of_decodeHalf hc h25 h7 h4 h
  next h74 =>
  split at h
  next hpsr =>
    simp only [Bool.and_eq_true, beq_iff_eq] at hpsr
    exact encode_of_decodeMisc hc h25 hpsr.1 h
  next hpsr =>
  split at h
  next h4 =>
    have h7 : w.getLsbD 7 = false := by
      rw [h4, Bool.and_true] at h74
      exact Bool.eq_false_iff.mpr h74
    exact encode_of_decodeDpShiftReg hc h25 h7 h4 h
  next h4 => exact encode_of_decodeDpShiftImm hc h25 (Bool.eq_false_iff.mpr h4) h

theorem encode_of_decode001 (hc : field w 28 4 = c.bits) (h25 : field w 25 3 = 0b001#3) (h : decode001 c w = some i) :
    encode i = w := by
  unfold decode001 at h
  split at h
  next hpsr =>
    simp only [Bool.and_eq_true, beq_iff_eq, Bool.not_eq_true'] at hpsr
    obtain ⟨h23, h20⟩ := hpsr
    exact encode_of_decodeMsrImm hc h25 h23 h20 h
  next => exact encode_of_decodeDpImm hc h25 h

theorem encode_of_decode010 (hc : field w 28 4 = c.bits) (h25 : field w 25 3 = 0b010#3) (h : decode010 c w = some i) :
    encode i = w := by
  unfold decode010 at h
  split at h <;> rename_i h20 h22 <;> cases h <;>
    exact encSingleImm_eq_iff.mpr ⟨hc, h25, rfl, rfl, h22, rfl, h20, rfl, rfl, rfl⟩

theorem encode_of_decode011 (hc : field w 28 4 = c.bits) (h25 : field w 25 3 = 0b011#3) (h : decode011 c w = some i) :
    encode i = w := by
  unfold decode011 at h
  split at h
  next h4 =>
    cases h
    exact encode_undefined_eq_iff.mpr ⟨hc, h25, rfl, h4, rfl⟩
  next h4 =>
    have hsh := (bits_shiftType_ofBits (field w 5 2)).symm
    split at h <;> rename_i h20 h22 <;> cases h <;>
      exact encSingleReg_eq_iff.mpr
        ⟨hc, h25, rfl, rfl, h22, rfl, h20, rfl, rfl, rfl, hsh, Bool.eq_false_iff.mpr h4, rfl⟩

theorem encode_of_decode100 (hc : field w 28 4 = c.bits) (h25 : field w 25 3 = 0b100#3) (h : decode100 c w = some i) :
    encode i = w := by
  unfold decode100 at h
  split at h <;> rename_i h20 h24 h23 <;> cases h <;>
    exact encBlock_eq_iff.mpr ⟨hc, h25, h24, h23, rfl, rfl, h20, rfl, rfl⟩

/-- Bits 27:25 and the bit below them are one field. -/
theorem field_24 {x : BitVec 4} (h25 : field w 25 3 = x.extractLsb' 1 3) (h24 : w.getLsbD 24 = x.getLsbD 0) :
    field w 24 4 = x := by
  refine (field_split 3 1 rfl).mpr ⟨h25, ?_⟩
  have hbit : ∀ x : BitVec 4, bit (x.getLsbD 0) = x.extractLsb' 0 1 := by decide
  rw [field_one, h24, hbit]

theorem encode_of_decode101 (hc : field w 28 4 = c.bits) (h25 : field w 25 3 = 0b101#3) (h : decode101 c w = some i) :
    encode i = w := by
  unfold decode101 at h
  split at h <;> rename_i h24 <;> cases h
  · exact encode_bl_eq_iff.mpr ⟨hc, field_24 h25 h24, rfl⟩
  · exact encode_b_eq_iff.mpr ⟨hc, field_24 h25 (Bool.eq_false_iff.mpr h24), rfl⟩

theorem encode_of_decode110 (hc : field w 28 4 = c.bits) (h25 : field w 25 3 = 0b110#3) (h : decode110 c w = some i) :
    encode i = w := by
  unfold decode110 at h
  split at h <;> rename_i h20 <;> cases h
  · exact encCoData_eq_iff.mpr ⟨hc, h25, rfl, rfl, rfl, rfl, h20, rfl, rfl, rfl, rfl⟩
  · exact encCoData_eq_iff.mpr ⟨hc, h25, rfl, rfl, rfl, rfl, Bool.eq_false_iff.mpr h20, rfl, rfl, rfl, rfl⟩

theorem encode_of_decode111 (hc : field w 28 4 = c.bits) (h25 : field w 25 3 = 0b111#3) (h : decode111 c w = some i) :
    encode i = w := by
  unfold decode111 at h
  split at h
  next h24 =>
    cases h
    exact encode_swi_eq_iff.mpr ⟨hc, field_24 h25 h24, rfl⟩
  next h24 =>
  have hco : field w 24 4 = 0b1110#4 := field_24 h25 (Bool.eq_false_iff.mpr h24)
  split at h
  next h4 =>
    split at h <;> rename_i h20 <;> cases h
    · exact encCoReg_eq_iff.mpr ⟨hc, hco, rfl, h20, rfl, rfl, rfl, rfl, h4, rfl⟩
    · exact encCoReg_eq_iff.mpr ⟨hc, hco, rfl, Bool.eq_false_iff.mpr h20, rfl, rfl, rfl, rfl, h4, rfl⟩
  next h4 =>
    cases h
    exact encode_cdp_eq_iff.mpr ⟨hc, hco, rfl, rfl, rfl, rfl, rfl, Bool.eq_false_iff.mpr h4, rfl⟩

theorem encode_of_decodeBody (hc : field w 28 4 = c.bits) (h : decodeBody c w = some i) : encode i = w := by
  unfold decodeBody at h
  split at h <;> rename_i h25
  · exact encode_of_decode000 hc (eq_ofNat_of_toNat h25) h
  · exact encode_of_decode001 hc (eq_ofNat_of_toNat h25) h
  · exact encode_of_decode010 hc (eq_ofNat_of_toNat h25) h
  · exact encode_of_decode011 hc (eq_ofNat_of_toNat h25) h
  · exact encode_of_decode100 hc (eq_ofNat_of_toNat h25) h
  · exact encode_of_decode101 hc (eq_ofNat_of_toNat h25) h
  · exact encode_of_decode110 hc (eq_ofNat_of_toNat h25) h
  · have hlast : field w 25 3 = 0b111#3 := by simp only [imp_false] at *; bv_omega
    exact encode_of_decode111 hc hlast h

end

/-- Settles O5: each decoder of R89 takes the instruction's operands from the fields its format places them in. -/
theorem encodeOfDecode : Obligations.EncodeOfDecode := by
  intro w i h
  obtain ⟨c, hc, hbody⟩ := decode_eq_ok_iff.mp h
  exact encode_of_decodeBody hc hbody

end Sys2Proof
end

section
/-! PROOFS. Words that are no instruction, and instructions that do not take effect (30_encoding.md R75, R76, R90): the
condition 1111, words of no row, a condition that fails and the operand combinations the spec refuses. -/

namespace Sys2Proof

/-! ## The condition 1111 (R76) -/

theorem ofBits_eq_none_iff (b : BitVec 4) : Cond.ofBits b = none ↔ b = 0b1111#4 := by
  revert b
  decide

theorem decode_eq_neverCondition_iff (w : Word) : decode w = .neverCondition ↔ Cond.ofBits (field w 28 4) = none := by
  unfold decode
  cases Cond.ofBits (field w 28 4) with
  | none => simp
  | some c => cases hbody : decodeBody c w <;> simp [hbody]

/-- Settles O6: `Cond.ofBits` leaves out 1111 alone, and the decoder rejects by condition nothing else. -/
theorem neverConditionWords : Obligations.NeverConditionWords := fun w =>
  (decode_eq_neverCondition_iff w).trans (ofBits_eq_none_iff _)

end Sys2Proof

namespace Sys2Proof.Machine

/-! ## The pc advanced and nothing else (R28) -/

theorem plain_setPc (s : State) : Plain s (s.setPc (s.pc + 4)) [] :=
  ⟨⟨rfl, rfl⟩, rfl, frame_pc s _, sameBytes_refl s⟩

theorem fallsThrough_iff (s : State) : fallsThrough s = true ↔ s.pc ≠ 0xFFFFFFFC#32 := by
  rw [fallsThrough, bne_iff_ne]

/-- Settles O12: every instruction runs under its condition, and where that fails only `State.advance` is left. -/
theorem failedConditionDoesNothing : Obligations.FailedConditionDoesNothing := by
  intro i s hfail
  rw [exec_failed hfail]
  refine ⟨fun hpc => ⟨s.setPc (s.pc + 4), ?_, plain_setPc s⟩, fun hpc => ?_⟩
  · rw [State.advance_of_ne hpc, Attempt.outcome_ok]
  · rw [State.advance_of_eq hpc, Attempt.outcome_refused]

/-! ## Words of no row (R90) -/

theorem step_of_neverCondition {s : State} (hs : reachesFetch s = true) (hf : fetchable s = true)
    (h : nextInstr s = .neverCondition) : step s = .refused .neverCondition := by
  have hdecode : decode s.wordNow = .neverCondition := (nextInstr_eq_decode s).symm.trans h
  rw [step_of_fetchable hs hf, runWord, hdecode]
  rfl

theorem step_of_reserved {s : State} {c : Cond} (hs : reachesFetch s = true) (hf : fetchable s = true)
    (h : nextInstr s = .reserved c) : step s = tickOutcome (runReserved c s.fetchAhead) := by
  have hdecode : decode s.wordNow = .reserved c := (nextInstr_eq_decode s).symm.trans h
  rw [step_of_fetchable hs hf, runWord, hdecode]

theorem runReserved_failed {c : Cond} {s : State} (h : condPassed c s.cpsr = false) :
    runReserved c s = s.advance.outcome := conditional_failed h

theorem runReserved_refuse {c : Cond} {s : State} (h : condPassed c s.cpsr = true) (hr : s.platform.reserved = .refuse) :
    runReserved c s = .refused .reservedWord := by
  rw [runReserved, conditional_passed h, hr]
  rfl

theorem runReserved_trap {c : Cond} {s : State} (h : condPassed c s.cpsr = true)
    (hr : s.platform.reserved = .undefinedTrap) : runReserved c s = .next (s.enter .undefined) := by
  rw [runReserved, conditional_passed h, hr]
  rfl

/-- The entry leaves the words fetched ahead behind, so it is the entry from the state before they were fetched. -/
theorem enter_fetchAhead (s : State) (e : Exn) : s.fetchAhead.enter e = s.enter e := by cases e <;> rfl

/-- Settles O11: a word of no row runs as `runReserved`, under its own condition. -/
theorem wordsOfNoRow : Obligations.WordsOfNoRow := by
  intro s hs hf
  refine ⟨step_of_neverCondition hs hf, fun c hc => ?_⟩
  rw [step_of_reserved hs hf hc]
  refine ⟨fun hfail hpc => ?_, fun hfail hpc => ?_, fun hpass hr => ?_, fun hpass hr => ?_⟩
  · have hne : s.fetchAhead.pc ≠ 0xFFFFFFFC#32 := (fallsThrough_iff s).mp hpc
    refine ⟨s.fetchAhead.setPc (s.fetchAhead.pc + 4), ?_, plain_setPc s.fetchAhead⟩
    rw [runReserved_failed (s := s.fetchAhead) hfail, State.advance_of_ne hne]
    rfl
  · have htop : s.fetchAhead.pc = 0xFFFFFFFC#32 := by simpa [fallsThrough] using hpc
    rw [runReserved_failed (s := s.fetchAhead) hfail, State.advance_of_eq htop]
    rfl
  · rw [runReserved_refuse (s := s.fetchAhead) hpass hr]
    rfl
  · refine ⟨s.enter .undefined, ?_, s.enter_entered .undefined⟩
    rw [runReserved_trap (s := s.fetchAhead) hpass hr, enter_fetchAhead]
    rfl

/-! ## Refused operand combinations (D16, D23, D24) -/

/-- The refusals that show in the instruction alone. -/
def RefusedOperands (x : Attempt State) : Prop :=
  x = .refused .unpredictableOperands ∨ x = .refused .userTransfer ∨ x = .refused .userBankForm

theorem refusedOperands_require {b : Bool} {k : Attempt State} (h : b = false) :
    RefusedOperands (require b .unpredictableOperands k) := by
  rw [h]
  exact .inl rfl

/-- The checks of a single or halfword transfer: the T variants first, then its operands (R158, R160, R217). -/
theorem refusedOperands_transfer {user ok : Bool} {k : Attempt State} (h : (!user && ok) = false) :
    RefusedOperands (require (!user) .userTransfer (require ok .unpredictableOperands k)) := by
  cases user with
  | true => exact .inr (.inl rfl)
  | false => exact refusedOperands_require h

/-- The checks of a block transfer: its operands first, then the User-bank form (R177, R178). -/
theorem refusedOperands_block {s : State} {load sb w : Bool} {rn : Reg} {list : BitVec 16} {k : Attempt State}
    (h : (blockOk w rn list && userBankOk load sb w list) = false) :
    RefusedOperands (checkedBlock s load sb w rn list k) := by
  unfold checkedBlock
  cases hblock : blockOk w rn list with
  | false => exact .inl rfl
  | true =>
    rw [hblock, Bool.true_and] at h
    rw [h]
    exact .inr (.inr rfl)

/-- The body of an ill-formed instruction is refused by its checks. -/
theorem exec_of_illFormed {i : Instr} (s : State) (h : i.wellFormed = false) :
    ∃ body, exec i s = conditional i.cond s body ∧ RefusedOperands body := by
  cases i with
  | andImm | eorImm | subImm | rsbImm | addImm | adcImm | sbcImm | rscImm | tstImm | teqImm | cmpImm | cmnImm | orrImm
  | movImm | bicImm | mvnImm | andShiftImm | eorShiftImm | subShiftImm | rsbShiftImm | addShiftImm | adcShiftImm
  | sbcShiftImm | rscShiftImm | tstShiftImm | teqShiftImm | cmpShiftImm | cmnShiftImm | orrShiftImm | movShiftImm
  | bicShiftImm | mvnShiftImm | msrImm | b | bl | ldc | stc | cdp | mrc | mcr | swi | undefined => cases h
  | andShiftReg | eorShiftReg | subShiftReg | rsbShiftReg | addShiftReg | adcShiftReg | sbcShiftReg | rscShiftReg
  | tstShiftReg | teqShiftReg | cmpShiftReg | cmnShiftReg | orrShiftReg | movShiftReg | bicShiftReg | mvnShiftReg
  | mrs | msrReg | mul | mla | umull | umlal | smull | smlal | swp | swpb | bx =>
    exact ⟨_, rfl, refusedOperands_require h⟩
  | ldrhReg | ldrhImm | strhReg | strhImm | ldrsbReg | ldrsbImm | ldrshReg | ldrshImm | ldrImm | ldrReg | strImm | strReg
  | ldrbImm | ldrbReg | strbImm | strbReg => exact ⟨_, rfl, refusedOperands_transfer h⟩
  | ldmia | ldmib | ldmda | ldmdb | stmia | stmib | stmda | stmdb => exact ⟨_, rfl, refusedOperands_block h⟩

/-- Settles O13: the checks of each meaning are those of `Instr.wellFormed`, and come right after the condition. -/
theorem illFormedIsRefused : Obligations.IllFormedIsRefused := by
  intro i s hill hpass
  obtain ⟨body, hexec, hrefused⟩ := exec_of_illFormed s hill
  rw [hexec, conditional_passed hpass]
  exact hrefused.imp (congrArg _) (Or.imp (congrArg _) (congrArg _))

end Sys2Proof.Machine
end

section
/-! PROOFS. The conditions after a comparison (30_encoding.md R74, 41_data_processing.md R112, R115): what each test of the
flags says of the two words compared. -/

namespace Sys2Proof.Machine

/-! ## The test column -/

theorem condPassed_flags (p : Word) :
    (condPassed .eq p = true ↔ p.getLsbD 30 = true) ∧ (condPassed .ne p = true ↔ p.getLsbD 30 = false) ∧
    (condPassed .cs p = true ↔ p.getLsbD 29 = true) ∧ (condPassed .cc p = true ↔ p.getLsbD 29 = false) ∧
    (condPassed .mi p = true ↔ p.getLsbD 31 = true) ∧ (condPassed .pl p = true ↔ p.getLsbD 31 = false) ∧
    (condPassed .vs p = true ↔ p.getLsbD 28 = true) ∧ (condPassed .vc p = true ↔ p.getLsbD 28 = false) ∧
    (condPassed .hi p = true ↔ p.getLsbD 29 = true ∧ p.getLsbD 30 = false) ∧
    (condPassed .ls p = true ↔ p.getLsbD 29 = false ∨ p.getLsbD 30 = true) ∧
    (condPassed .ge p = true ↔ p.getLsbD 31 = p.getLsbD 28) ∧
    (condPassed .lt p = true ↔ p.getLsbD 31 ≠ p.getLsbD 28) ∧
    (condPassed .gt p = true ↔ p.getLsbD 30 = false ∧ p.getLsbD 31 = p.getLsbD 28) ∧
    (condPassed .le p = true ↔ p.getLsbD 30 = true ∨ p.getLsbD 31 ≠ p.getLsbD 28) ∧
    condPassed .al p = true := by
  simp [condPassed, psrN, psrZ, psrC, psrV]

/-! ## The flags of a comparison -/

/-- The flags of a comparison of `a` with `b`: sign and overflow of the difference, equality, no borrow. -/
structure Compared (a b p : Word) : Prop where
  n : psrN p = decide ((a - b).toInt < 0)
  z : psrZ p = decide (a = b)
  c : psrC p = decide (b.toNat ≤ a.toNat)
  v : psrV p = decide (a.toInt - b.toInt ≠ (a - b).toInt)

theorem toInt_word_bounds (a : Word) : -2147483648 ≤ a.toInt ∧ a.toInt ≤ 2147483647 := by
  have hlo := BitVec.le_toInt a
  have hhi := BitVec.toInt_lt (x := a)
  omega

theorem toInt_word_neg_iff (a : Word) : a.toInt < 0 ↔ 2147483648 ≤ a.toNat := by
  have ha := a.isLt
  rw [BitVec.toInt_eq_toNat_cond]
  split <;> omega

/-- The signed value of a difference is the exact one, or that moved by 2^32. -/
theorem toInt_sub_word (a b : Word) :
    (a - b).toInt = a.toInt - b.toInt ∨ (a - b).toInt = a.toInt - b.toInt + 4294967296 ∨
      (a - b).toInt = a.toInt - b.toInt - 4294967296 := by
  have ha := toInt_word_bounds a
  have hb := toInt_word_bounds b
  have hsub : (a - b).toInt = (a.toInt - b.toInt).bmod (2 ^ 32) := BitVec.toInt_sub
  rw [Int.bmod_def] at hsub
  omega

/-- The exact difference is a signed word where it is the signed value of the difference. -/
theorem sub_overflow_iff (a b : Word) :
    (a.toInt - b.toInt < -2147483648 ∨ 2147483647 < a.toInt - b.toInt) ↔ a.toInt - b.toInt ≠ (a - b).toInt := by
  have hd := toInt_word_bounds (a - b)
  have hcases := toInt_sub_word a b
  have ha := toInt_word_bounds a
  have hb := toInt_word_bounds b
  omega

theorem compared_of_flags {a b p : Word} (h : psrFlags p = arithNzcv .sub a b true) : Compared a b p := by
  simp only [psrFlags, arithNzcv, Nzcv.mk.injEq] at h
  obtain ⟨hn, hz, hc, hv⟩ := h
  refine ⟨hn.trans ?_, hz.trans ?_, hc.trans ?_, hv.trans ?_⟩
  · exact decide_eq_decide.mpr (toInt_word_neg_iff (a - b)).symm
  · exact decide_eq_decide.mpr sub_eq_zero
  · exact decide_eq_decide.mpr (Int.sub_nonneg.trans Int.ofNat_le)
  · exact decide_eq_decide.mpr (sub_overflow_iff a b)

/-! ## The meaning column -/

section
variable {a b p : Word}

theorem Compared.ge (h : Compared a b p) : condPassed .ge p = decide (b.toInt ≤ a.toInt) := by
  have hd := toInt_word_bounds (a - b)
  have hcases := toInt_sub_word a b
  have ha := toInt_word_bounds a
  have hb := toInt_word_bounds b
  rw [condPassed, h.n, h.v, Bool.beq_eq_decide_eq, decide_eq_decide, decide_eq_decide]
  omega

/-! LS, LT and LE are the tests HI, GE and GT negated. -/

theorem condPassed_ls (p : Word) : condPassed .ls p = !condPassed .hi p := by
  simp [condPassed]

theorem condPassed_lt (p : Word) : condPassed .lt p = !condPassed .ge p := rfl

theorem condPassed_le (p : Word) : condPassed .le p = !condPassed .gt p := by
  simp [condPassed, bne]

theorem Compared.hi (h : Compared a b p) : condPassed .hi p = decide (b.toNat < a.toNat) := by
  have heq : a = b ↔ a.toNat = b.toNat := BitVec.toNat_inj.symm
  rw [condPassed, h.c, h.z, ← decide_not, ← Bool.decide_and, decide_eq_decide, heq]
  omega

theorem Compared.gt (h : Compared a b p) : condPassed .gt p = decide (b.toInt < a.toInt) := by
  have heq : a = b ↔ a.toInt = b.toInt := BitVec.toInt_inj.symm
  have hgt : condPassed .gt p = (!psrZ p && condPassed .ge p) := rfl
  rw [hgt, h.ge, h.z, ← decide_not, ← Bool.decide_and, decide_eq_decide, heq]
  omega

/-- A test negated says the opposite. -/
theorem not_eq_decide {x : Bool} {P Q : Prop} [Decidable P] [Decidable Q] (h : x = decide P) (hPQ : ¬ P ↔ Q) :
    (!x) = decide Q := by
  rw [h, ← decide_not, decide_eq_decide]
  exact hPQ

end

/-- Settles O15: the flags of a comparison are those of `Compared`, and each test of them is one of order or sign. -/
theorem conditionsCompare : Obligations.ConditionsCompare := by
  refine ⟨condPassed_flags, fun a b p hp => ?_⟩
  have h := compared_of_flags hp
  rw [condPassed_ls, condPassed_lt, condPassed_le]
  exact ⟨h.z, not_eq_decide h.z Iff.rfl, h.c, not_eq_decide h.c Nat.not_le, h.n, not_eq_decide h.n Int.not_lt,
    h.v, not_eq_decide h.v not_not, h.hi, not_eq_decide h.hi Nat.not_lt, h.ge, not_eq_decide h.ge Int.not_le,
    h.gt, not_eq_decide h.gt Int.not_lt⟩

end Sys2Proof.Machine
end

section
/-! PROOFS. The barrel shifter (30_encoding.md R78 to R84): the tables of shifts by an immediate and by a register, and the
rotated immediate. -/

namespace Sys2Proof.Machine

/-! ## The register shifted (R27) -/

theorem State.reg_eq_ite (s : State) (r : Reg) :
    s.reg r = if r = 15#4 then s.pc + 8 else s.phys (physReg s.bank r) := by
  by_cases h : r = 15#4
  · rw [if_pos h, h, State.reg_pc]
  · rw [if_neg h, s.reg_of_ne h]

theorem State.reg12_eq_ite (s : State) (r : Reg) :
    s.reg12 r = if r = 15#4 then s.pc + 12 else s.phys (physReg s.bank r) := by
  by_cases h : r = 15#4
  · rw [if_pos h, h, State.reg12_pc]
  · rw [if_neg h, s.reg12_of_ne h]

/-! ## Rotation -/

/-- A word rotated right: each bit is the one `n` places above it, round the word. -/
theorem getLsbD_rotateRight_word (m : Word) (n i : Nat) (hi : i < 32) :
    (m.rotateRight n).getLsbD i = m.getLsbD ((i + n) % 32) := by
  rw [BitVec.getLsbD_rotateRight]
  by_cases hlow : i < 32 - n % 32
  · rw [decide_eq_true hlow, cond_true]
    congr 1
    omega
  · rw [decide_eq_false hlow, cond_false, decide_eq_true hi, Bool.true_and]
    congr 1
    omega

/-! ## The rows of R80 -/

section
variable (m : Word) (cin : Bool) {n : Nat}

/-- ROR by the amount 0 is RRX: C comes in at the top. -/
theorem toNat_rrx : (place 31 (bit cin) ||| m >>> 1 : Word).toNat = (if cin then 2147483648 else 0) + m.toNat / 2 := by
  have hm := m.isLt
  have hhalf : (m >>> 1).toNat = m.toNat / 2 := by rw [BitVec.toNat_ushiftRight, Nat.shiftRight_eq_div_pow]
  rw [toNat_place_or 31 (bit cin) (m >>> 1) (by decide) (by omega), hhalf]
  cases cin <;> rfl

theorem shiftByImm_lsl (hn : n ≠ 0) : shiftByImm .lsl n m cin = ⟨m <<< n, m.getLsbD (32 - n)⟩ := if_neg hn
theorem shiftByImm_lsr (hn : n ≠ 0) : shiftByImm .lsr n m cin = ⟨m >>> n, m.getLsbD (n - 1)⟩ := if_neg hn
theorem shiftByImm_asr (hn : n ≠ 0) : shiftByImm .asr n m cin = ⟨m.sshiftRight n, m.getLsbD (n - 1)⟩ := if_neg hn
theorem shiftByImm_ror (hn : n ≠ 0) : shiftByImm .ror n m cin = ⟨m.rotateRight n, m.getLsbD (n - 1)⟩ := if_neg hn

theorem toNat_shiftLeft_word (n : Nat) : (m <<< n).toNat = m.toNat * 2 ^ n % 4294967296 := by
  rw [BitVec.toNat_shiftLeft, Nat.shiftLeft_eq]

theorem toNat_shiftRight_word (n : Nat) : (m >>> n).toNat = m.toNat / 2 ^ n := by
  rw [BitVec.toNat_ushiftRight, Nat.shiftRight_eq_div_pow]

theorem toInt_sshiftRight_word (n : Nat) : (m.sshiftRight n).toInt = m.toInt / 2 ^ n := by
  rw [BitVec.toInt_sshiftRight, Int.shiftRight_eq_div_pow]
  norm_cast

end

/-- Settles O18: each row of the table is a shift of the library, or the amount 0. -/
theorem shiftByImmediate : Obligations.ShiftByImmediate := by
  refine ⟨fun s amt sh rm => ?_, fun m cin => ⟨rfl, rfl, rfl, ⟨toNat_rrx m cin, rfl⟩, fun n hpos _ => ?_⟩⟩
  · rw [op2ShiftImm, State.reg_eq_ite]
  · have hn : n ≠ 0 := by omega
    rw [shiftByImm_lsl m cin hn, shiftByImm_lsr m cin hn, shiftByImm_asr m cin hn, shiftByImm_ror m cin hn]
    exact ⟨⟨toNat_shiftLeft_word m n, rfl⟩, ⟨toNat_shiftRight_word m n, rfl⟩, ⟨toInt_sshiftRight_word m n, rfl⟩,
      fun i hi => getLsbD_rotateRight_word m n i hi, rfl⟩

/-! ## The rows of R81 -/

theorem toNat_field_low (v : Word) : (field v 0 8).toNat = v.toNat % 256 := by
  rw [field, BitVec.extractLsb'_toNat, Nat.shiftRight_zero]

section
variable (m : Word) (cin : Bool) {n : Nat}

theorem shiftByReg_zero (t : ShiftType) : shiftByReg t 0 m cin = ⟨m, cin⟩ := rfl

/-- From 1 to 31 a register shifts as an immediate does. -/
theorem shiftByReg_eq_shiftByImm (t : ShiftType) (hpos : 1 ≤ n) (hlt : n ≤ 31) :
    shiftByReg t n m cin = shiftByImm t n m cin := by
  have hn : n ≠ 0 := by omega
  have hlt' : n < 32 := by omega
  have hmod : n % 32 = n := Nat.mod_eq_of_lt hlt'
  cases t <;> simp only [shiftByReg, shiftByImm, hn, hlt', hmod, if_false, if_true]

theorem shiftByReg_asr_full (h : 32 ≤ n) : shiftByReg .asr n m cin = ⟨signFill m, m.getLsbD 31⟩ := by
  rw [shiftByReg, if_neg (by omega)]
  exact if_neg (by omega)

theorem shiftByReg_over {t : ShiftType} (h : 33 ≤ n) (ht : t = .lsl ∨ t = .lsr) :
    shiftByReg t n m cin = ⟨0#32, false⟩ := by
  have hn : n ≠ 0 := by omega
  have hge : ¬ n < 32 := by omega
  have hne : n ≠ 32 := by omega
  rcases ht with rfl | rfl <;> simp only [shiftByReg, hn, hge, hne, if_false] <;> rfl

theorem shiftByReg_ror_whole (hpos : 1 ≤ n) (h : n % 32 = 0) : shiftByReg .ror n m cin = ⟨m, m.getLsbD 31⟩ := by
  rw [shiftByReg, if_neg (by omega)]
  exact if_pos h

/-- A rotation counts modulo 32. -/
theorem shiftByReg_ror_mod (hpos : 1 ≤ n) (h : n % 32 ≠ 0) :
    shiftByReg .ror n m cin = shiftByImm .ror (n % 32) m cin := by
  rw [shiftByReg, if_neg (by omega), shiftByImm_ror m cin h]
  exact if_neg h

end

/-- Settles O19: below 32 the table is that of R80, from 32 on each type has rows of its own. -/
theorem shiftByRegister : Obligations.ShiftByRegister := by
  refine ⟨fun s rs sh rm hrs => ?_, fun m cin t n _ => ?_⟩
  · rw [op2ShiftReg, toNat_field_low, s.reg12_of_ne hrs, State.reg12_eq_ite]
  · refine ⟨?_, shiftByReg_eq_shiftByImm m cin t, ?_, ?_, shiftByReg_over m cin, ?_, ?_, ?_⟩
    · rintro rfl; exact shiftByReg_zero m cin t
    · rintro rfl rfl; rfl
    · rintro rfl rfl; rfl
    · rintro h rfl; exact shiftByReg_asr_full m cin h
    · rintro hpos h rfl; exact shiftByReg_ror_whole m cin hpos h
    · rintro h hmod rfl; exact shiftByReg_ror_mod m cin (by omega) hmod

/-! ## The rotated immediate (R83) -/

theorem getLsbD_rotatedImm (rot : BitVec 4) (imm8 : BitVec 8) (i : Nat) (hi : i < 32) :
    (rotatedImm rot imm8).getLsbD i = (imm8.setWidth 32).getLsbD ((i + 2 * rot.toNat) % 32) :=
  getLsbD_rotateRight_word _ _ i hi

/-- Settles O20: each bit of the rotated immediate, bit 31 as the carry-out. -/
theorem rotatedImmediate : Obligations.RotatedImmediate := by
  intro s rot imm8
  refine ⟨getLsbD_rotatedImm rot imm8, ?_⟩
  rw [op2Imm, getLsbD_rotatedImm rot imm8 31 (by decide)]

end Sys2Proof.Machine
end

section
/-! PROOFS. Branches (40_branch.md): where B, BL and BX go, what they write and leave as it was, and the example words of the
spec. -/

namespace Sys2Proof.Machine

/-! ## Branch targets (R100, R103) -/

/-- The offset field, sign-extended and shifted left by two, counts words in two's complement. -/
theorem branchTarget_eq (s : State) (off : BitVec 24) :
    branchTarget s off = s.pc + 8 + BitVec.ofInt 32 (4 * off.toInt) := by
  rw [branchTarget, BitVec.signExtend, BitVec.shiftLeft_eq_mul_twoPow, mul_comm 4, BitVec.ofInt_mul]
  rfl

theorem wordAligned_add {a b : Word} (ha : wordAligned a = true) (hb : wordAligned b = true) :
    wordAligned (a + b) = true := by
  rw [wordAligned_iff] at *
  rw [BitVec.toNat_add]
  omega

theorem wordAligned_shiftLeft_two (a : Word) : wordAligned (a <<< 2) = true := by
  rw [wordAligned_iff, toNat_shiftLeft_word]
  omega

theorem wordAligned_branchTarget {s : State} (off : BitVec 24) (hpc : wordAligned s.pc = true) :
    wordAligned (branchTarget s off) = true :=
  wordAligned_add (wordAligned_add hpc rfl) (wordAligned_shiftLeft_two _)

/-- The two bits a value for R15 is tested for (R28). -/
theorem wordAligned_eq_low_bits (a : Word) : wordAligned a = (!a.getLsbD 0 && !a.getLsbD 1) := by
  rw [Bool.eq_iff_iff, wordAligned, beq_iff_eq, Bool.and_eq_true, Bool.not_eq_true', Bool.not_eq_true']
  exact ⟨fun h => ⟨getLsbD_of_field h 0 (by decide), getLsbD_of_field h 1 (by decide)⟩,
    fun ⟨hlow, hhigh⟩ => field_two hhigh hlow⟩

/-! ## B and BL (R101, R102) -/

/-- A jump writes only what a frame leaves open. -/
theorem frame_jump_of_frame {s t : State} {ps : List PhysReg} (h : Frame s t ps) (a : Word) : Frame s (t.jump a) ps := h

section
variable {c : Cond} {off : BitVec 24} {s : State} (hc : condPassed c s.cpsr = true) (hpc : wordAligned s.pc = true)
include hc hpc

theorem exec_b : exec (.b c off) s = .next (s.jump (branchTarget s off)) := by
  change conditional c s (s.writePc (branchTarget s off)) = _
  rw [conditional_passed hc, State.writePc_of_aligned (wordAligned_branchTarget off hpc), Attempt.outcome_ok]

theorem exec_bl : exec (.bl c off) s = .next ((s.setReg 14#4 (s.pc + 4)).jump (branchTarget s off)) := by
  change conditional c s ((s.setReg 14#4 (s.pc + 4)).writePc (branchTarget s off)) = _
  rw [conditional_passed hc, State.writePc_of_aligned (wordAligned_branchTarget off hpc), Attempt.outcome_ok]

end

/-- Settles O27: the target is aligned because the pc is, so both jump; BL writes R14 first. -/
theorem branchAndLink : Obligations.BranchAndLink := by
  intro c off s hc hpc
  rw [← branchTarget_eq]
  refine ⟨⟨_, exec_b hc hpc, ⟨rfl, rfl⟩, rfl, frame_jump s _, sameBytes_refl s⟩,
    ⟨_, exec_bl hc hpc, ⟨rfl, rfl⟩, ?_, rfl, ?_, sameBytes_setReg s 14#4 (s.pc + 4)⟩⟩
  · rw [State.jump_phys, State.phys_setReg, if_pos rfl]
  · exact frame_jump_of_frame (frame_setReg s 14#4 (s.pc + 4) s.pc) _

/-! ## BX (R103) -/

/-- What BX comes to: the test of bit 0, then the write of R15. -/
theorem exec_bx {c : Cond} {rn : Reg} {s : State} (h : runs (.bx c rn) s = true) :
    exec (.bx c rn) s =
      (require (!(s.phys (physReg s.bank rn)).getLsbD 0) .thumbState
        (s.writePc (s.phys (physReg s.bank rn)))).outcome := by
  obtain ⟨_, hrn⟩ := (runs_iff _ s).mp h
  have hne : rn ≠ 15#4 := isPc_eq_false.mp ((Bool.not_eq_true' _).mp hrn)
  rw [← s.reg_of_ne hne]
  exact (exec_of_runs h rfl).trans (congrArg _ (require_of_true hrn _ _))

/-- Settles O28: bit 0 is tested by BX itself, bit 1 by the write of R15. -/
theorem branchExchange : Obligations.BranchExchange := by
  intro c rn s h
  rw [exec_bx h]
  refine ⟨fun h0 => ?_, fun h0 h1 => ?_, fun h0 h1 => ?_⟩
  · rw [h0]
    rfl
  · have hodd : wordAligned (s.phys (physReg s.bank rn)) = false := by rw [wordAligned_eq_low_bits, h0, h1]; rfl
    rw [h0, State.writePc_of_misaligned hodd]
    rfl
  · have heven : wordAligned (s.phys (physReg s.bank rn)) = true := by rw [wordAligned_eq_low_bits, h0, h1]; rfl
    rw [h0, State.writePc_of_aligned heven]
    exact ⟨_, rfl, ⟨rfl, rfl⟩, rfl, frame_jump s _, sameBytes_refl s⟩

end Sys2Proof.Machine

namespace Sys2Proof

/-! ## Example words (R72) -/

theorem decode_of_encode_eq {i : Instr} {w : Word} (h : encode i = w) : decode w = .ok i := h ▸ decodeOfEncode i

/-- Settles O7: each word is the encoding of the instruction the spec gives for it. -/
theorem specExampleWords : Obligations.SpecExampleWords := by
  unfold Obligations.SpecExampleWords
  and_intros <;> exact decode_of_encode_eq (by decide)

end Sys2Proof
end

section
/-! PROOFS. The adder (41_data_processing.md R115): its result, and its carry and overflow as what the exact
unsigned and signed values say, of a sum and, with the second word complemented, of a difference. -/

namespace Sys2Proof.Machine

/-! ## Signs -/

/-- N of a result says that it is at least 2^31 (R111, R112). -/
theorem getLsbD_31_eq_decide (a : Word) : a.getLsbD 31 = decide (2147483648 ≤ a.toNat) :=
  a.msb_eq_getLsbD_last.symm.trans a.msb_eq_decide

/-- The signed value of a word, by its top bit. -/
theorem toInt_word_eq_ite (a : Word) :
    a.toInt = if 2147483648 ≤ a.toNat then (a.toNat : Int) - 4294967296 else a.toNat := by
  rw [BitVec.toInt_eq_toNat_cond]
  split <;> split <;> omega

/-! ## Sums -/

section
variable (a b : Word) (cin : Bool)

theorem addWithCarry_carry :
    (addWithCarry a b cin).carry = decide (4294967296 ≤ a.toNat + b.toNat + cin.toNat) := rfl

theorem addWithCarry_overflow : (addWithCarry a b cin).overflow =
    decide (a.toInt + b.toInt + (cin.toNat : Int) < -2147483648 ∨
      2147483647 < a.toInt + b.toInt + (cin.toNat : Int)) := rfl

theorem toNat_addWithCarry_result :
    (addWithCarry a b cin).result.toNat = (a.toNat + b.toNat + cin.toNat) % 4294967296 := BitVec.toNat_ofNat _ 32

theorem addWithCarry_result : (addWithCarry a b cin).result = a + b + (if cin then 1#32 else 0#32) := by
  apply BitVec.eq_of_toNat_eq
  rw [toNat_addWithCarry_result, BitVec.toNat_add, BitVec.toNat_add]
  cases cin <;> simp

/-- A signed sum leaves the words where its operands agree in sign and its result does not (R115). -/
theorem addWithCarry_overflow_iff : (addWithCarry a b cin).overflow = true ↔
    a.getLsbD 31 = b.getLsbD 31 ∧ (addWithCarry a b cin).result.getLsbD 31 ≠ a.getLsbD 31 := by
  have ha := a.isLt
  have hb := b.isLt
  have hcin := cin.toNat_le
  simp only [addWithCarry_overflow, getLsbD_31_eq_decide, toNat_addWithCarry_result, toInt_word_eq_ite,
    decide_eq_true_eq, decide_eq_decide, ne_eq]
  split <;> split <;> omega

/-! ## Sums and differences with what their exact values say -/

theorem AddOut.eq_mk {r : AddOut} {value : Word} {carry overflow : Bool} (hvalue : r.result = value)
    (hcarry : r.carry = carry) (hoverflow : r.overflow = overflow) : r = ⟨value, carry, overflow⟩ := by
  rw [← hvalue, ← hcarry, ← hoverflow]

/-- What a carry adds to an exact sum. -/
theorem ite_carry_eq_toNat : (if cin then 1 else 0 : Int) = cin.toNat := by cases cin <;> rfl

/-- What a borrow takes from an exact difference. -/
theorem ite_borrow_eq_toNat : (if cin then 0 else 1 : Int) = 1 - cin.toNat := by cases cin <;> rfl

theorem addWithCarry_eq_sum : addWithCarry a b cin =
    ⟨a + b + (if cin then 1#32 else 0#32),
      decide (4294967296 ≤ (a.toNat : Int) + b.toNat + (if cin then 1 else 0)),
      decide (a.toInt + b.toInt + (if cin then 1 else 0) < -2147483648 ∨
        2147483647 < a.toInt + b.toInt + (if cin then 1 else 0))⟩ := by
  rw [ite_carry_eq_toNat]
  refine AddOut.eq_mk (addWithCarry_result a b cin) ?_ (addWithCarry_overflow a b cin)
  rw [addWithCarry_carry, decide_eq_decide]
  omega

theorem addWithCarry_false_eq_sum : addWithCarry a b false =
    ⟨a + b, decide (4294967296 ≤ (a.toNat : Int) + b.toNat),
      decide (a.toInt + b.toInt < -2147483648 ∨ 2147483647 < a.toInt + b.toInt)⟩ := by
  simpa using addWithCarry_eq_sum a b false

theorem toInt_not_word : (~~~b).toInt = -b.toInt - 1 := by
  have hb := b.isLt
  rw [toInt_word_eq_ite, toInt_word_eq_ite, BitVec.toNat_not]
  split <;> split <;> omega

/-- With its second word complemented the adder subtracts: C is the absence of a borrow (R112). -/
theorem addWithCarry_not_eq_difference : addWithCarry a (~~~b) cin =
    ⟨a - b - (if cin then 0#32 else 1#32),
      decide (0 ≤ (a.toNat : Int) - b.toNat - (if cin then 0 else 1)),
      decide (a.toInt - b.toInt - (if cin then 0 else 1) < -2147483648 ∨
        2147483647 < a.toInt - b.toInt - (if cin then 0 else 1))⟩ := by
  have hb := b.isLt
  rw [ite_borrow_eq_toNat]
  refine AddOut.eq_mk ?_ ?_ ?_
  · rw [addWithCarry_result, BitVec.not_eq_neg_add]
    split <;> bv_omega
  · rw [addWithCarry_carry, BitVec.toNat_not, decide_eq_decide]
    omega
  · rw [addWithCarry_overflow, toInt_not_word, decide_eq_decide]
    omega

theorem addWithCarry_not_true_eq_difference : addWithCarry a (~~~b) true =
    ⟨a - b, decide (0 ≤ (a.toNat : Int) - b.toNat),
      decide (a.toInt - b.toInt < -2147483648 ∨ 2147483647 < a.toInt - b.toInt)⟩ := by
  simpa using addWithCarry_not_eq_difference a b true

end

/-- Settles O21: the result is the exact unsigned sum modulo 2^32, and overflow is a matter of the three signs. -/
theorem adder : Obligations.Adder := fun a b cin =>
  ⟨addWithCarry_result a b cin, addWithCarry_carry a b cin, addWithCarry_overflow_iff a b cin⟩

end Sys2Proof.Machine
end

section
/-! PROOFS. Data processing (41_data_processing.md): every operation in every form of operand 2 as one write of Rd, or
of the flags alone, and what that write does. -/

namespace Sys2Proof.Machine

/-! ## The operands (R81, R110) -/

/-- The one form refused is a shift by R15 (R81). -/
def Op2.allowed (x : Op2) : Bool :=
  match x with
  | .imm _ _ => true
  | .shiftImm _ _ _ => true
  | .shiftReg rs _ _ => shiftRegOk rs

/-- Operand 1 is Rn as the model reads it beside this form. -/
theorem Op2.first_eq_regAhead (x : Op2) (s : State) (rn : Reg) : x.first s rn = s.regAhead x.ahead rn := by
  simp only [Op2.first, State.regAhead, isPc, beq_iff_eq]

/-! ## What an operation computes (R110 to R112) -/

/-- The adder as an arithmetic operation uses it (R120 to R125); the logical class does not use it. -/
def DpOp.sum (op : DpOp) (a b : Word) (cin : Bool) : AddOut :=
  match op with
  | .add => addWithCarry a b false
  | .adc => addWithCarry a b cin
  | .sub => addWithCarry a (~~~b) true
  | .sbc => addWithCarry a (~~~b) cin
  | .rsb => addWithCarry b (~~~a) true
  | .rsc => addWithCarry b (~~~a) cin
  | .and | .eor | .orr | .mov | .bic | .mvn => ⟨op.result a b cin, false, false⟩

/-- The flags an operation sets. -/
def DpOp.flags (op : DpOp) (s : State) (a : Word) (y : ShifterOut) : Nzcv :=
  if op.logical then logicalFlags s.cpsr (op.result a y.value (psrC s.cpsr)) y.carry
  else arithFlags (op.sum a y.value (psrC s.cpsr))

/-- The operation whose flags a test sets (R126 to R129). -/
def TestOp.dpOp (op : TestOp) : DpOp :=
  match op with
  | .tst => .and
  | .teq => .eor
  | .cmp => .sub
  | .cmn => .add

/-- The adder computes each operation of its class, with the carry and the overflow of the exact values (R115). -/
theorem DpOp.sum_eq {op : DpOp} (h : op.logical = false) (a b : Word) (cin : Bool) :
    op.sum a b cin = ⟨op.result a b cin, op.carry a b cin, op.overflow a b cin⟩ := by
  cases op with
  | add => exact addWithCarry_false_eq_sum a b
  | adc => exact addWithCarry_eq_sum a b cin
  | sub => exact addWithCarry_not_true_eq_difference a b
  | sbc => exact addWithCarry_not_eq_difference a b cin
  | rsb => exact addWithCarry_not_true_eq_difference b a
  | rsc => exact addWithCarry_not_eq_difference b a cin
  | and | eor | orr | mov | bic | mvn => cases h

theorem DpOp.sum_result (op : DpOp) (a b : Word) (cin : Bool) : (op.sum a b cin).result = op.result a b cin := by
  cases op with
  | add | adc | sub | sbc | rsb | rsc => rw [DpOp.sum_eq rfl]
  | and | eor | orr | mov | bic | mvn => rfl

theorem DpOp.flags_of_logical {op : DpOp} (h : op.logical = true) (s : State) (a : Word) (y : ShifterOut) :
    op.flags s a y = logicalNzcv s (op.result a y.value (psrC s.cpsr)) y.carry := by
  rw [DpOp.flags, if_pos h, logicalFlags, logicalNzcv, getLsbD_31_eq_decide]

theorem DpOp.flags_of_arith {op : DpOp} (h : op.logical = false) (s : State) (a : Word) (y : ShifterOut) :
    op.flags s a y = arithNzcv op a y.value (psrC s.cpsr) := by
  rw [DpOp.flags, h, if_neg Bool.false_ne_true, DpOp.sum_eq h, arithFlags, arithNzcv, getLsbD_31_eq_decide]

/-! ## The instructions (R117 to R133) -/

section
variable {c : Cond} {rn : Reg} {x : Op2} {s : State}

/-- The operations with Rd differ in what they compute alone, and their forms in the operands. -/
theorem DpOp.exec_instr (op : DpOp) (c : Cond) (sb : Bool) (rn rd : Reg) (x : Op2) (s : State) :
    exec (op.instr c sb rn rd x) s =
      conditional (op.instr c sb rn rd x).cond s (require x.allowed .unpredictableOperands
        (dpWrite s sb rd (op.sum (s.regAhead x.ahead rn) (x.out s).value (psrC s.cpsr)).result
          (op.flags s (s.regAhead x.ahead rn) (x.out s)))) := by
  cases op <;> cases x <;> rfl

theorem DpOp.wellFormed_instr (op : DpOp) (c : Cond) (sb : Bool) (rn rd : Reg) (x : Op2) :
    (op.instr c sb rn rd x).wellFormed = x.allowed := by
  cases op <;> cases x <;> rfl

/-- An operation with Rd that runs is one write of its result and flags. -/
theorem DpOp.exec_eq_dpWrite {op : DpOp} {sb : Bool} {rd : Reg} (h : runs (op.instr c sb rn rd x) s = true) :
    exec (op.instr c sb rn rd x) s =
      (dpWrite s sb rd (op.result (x.first s rn) (x.out s).value (psrC s.cpsr))
        (op.flags s (x.first s rn) (x.out s))).outcome := by
  obtain ⟨_, hwf⟩ := (runs_iff _ s).mp h
  rw [op.wellFormed_instr] at hwf
  rw [exec_of_runs h (op.exec_instr c sb rn rd x s), require_of_true hwf, DpOp.sum_result, Op2.first_eq_regAhead]

theorem TestOp.exec_instr (op : TestOp) (c : Cond) (rn : Reg) (x : Op2) (s : State) :
    exec (op.instr c rn x) s = conditional (op.instr c rn x).cond s (require x.allowed .unpredictableOperands
      (s.setFlags (op.dpOp.flags s (s.regAhead x.ahead rn) (x.out s))).advance) := by
  cases op <;> cases x <;> rfl

theorem TestOp.wellFormed_instr (op : TestOp) (c : Cond) (rn : Reg) (x : Op2) :
    (op.instr c rn x).wellFormed = x.allowed := by
  cases op <;> cases x <;> rfl

/-- A test that runs writes the flags alone. -/
theorem TestOp.exec_eq_setFlags {op : TestOp} (h : runs (op.instr c rn x) s = true) :
    exec (op.instr c rn x) s = (s.setFlags (op.dpOp.flags s (x.first s rn) (x.out s))).advance.outcome := by
  obtain ⟨_, hwf⟩ := (runs_iff _ s).mp h
  rw [op.wellFormed_instr] at hwf
  rw [exec_of_runs h (op.exec_instr c rn x s), require_of_true hwf, Op2.first_eq_regAhead]

end

/-! ## Rd not R15 (R114) -/

/-- The result in Rd, with S the flags, and nothing else; or nothing at all past the last word of memory. -/
theorem DpOp.exec_result {op : DpOp} {x : Op2} {c : Cond} {sb : Bool} {rn rd : Reg} {s : State} (hrd : rd ≠ 15#4)
    (h : runs (op.instr c sb rn rd x) s = true) :
    (fallsThrough s = true → ∃ t, exec (op.instr c sb rn rd x) s = .next t ∧
      t.phys (physReg s.bank rd) = op.result (x.first s rn) (x.out s).value (psrC s.cpsr) ∧ Advances s t ∧
      FlagsBecome s t (if sb then op.flags s (x.first s rn) (x.out s) else psrFlags s.cpsr) ∧
      Frame s t [physReg s.bank rd] ∧ SameBytes s t) ∧
    (fallsThrough s = false → exec (op.instr c sb rn rd x) s = .refused .pcWrap) := by
  rw [DpOp.exec_eq_dpWrite h]
  constructor
  · intro hpc
    obtain ⟨t, ht, hdone⟩ := dpWrite_result sb _ (op.flags s (x.first s rn) (x.out s)) hrd hpc
    exact ⟨t, congrArg Attempt.outcome ht, hdone⟩
  · exact fun hpc => congrArg Attempt.outcome (dpWrite_wrap hrd hpc)

/-- Settles O22: the flags of the logical class. -/
theorem logicalResult : Obligations.LogicalResult := by
  intro op x c sb rn rd s hop hrd h
  rw [← DpOp.flags_of_logical hop]
  exact DpOp.exec_result hrd h

/-- Settles O23: the flags of the arithmetic class, as the adder computes them. -/
theorem arithmeticResult : Obligations.ArithmeticResult := by
  intro op x c sb rn rd s hop hrd h
  rw [← DpOp.flags_of_arith hop]
  exact DpOp.exec_result hrd h

/-! ## The flags alone (R126 to R129) -/

/-- A test is refused whole past the last word of memory (R28; log 21). -/
theorem State.setFlags_wrap {s : State} (f : Nzcv) (hpc : fallsThrough s = false) :
    (s.setFlags f).advance = .refused .pcWrap :=
  State.advance_of_eq (by simpa [fallsThrough] using hpc)

/-- Settles O24: each test sets the flags of its operation. -/
theorem testsSetFlagsOnly : Obligations.TestsSetFlagsOnly := by
  intro op x c rn s h
  rw [TestOp.exec_eq_setFlags h]
  constructor <;> intro hpc
  · obtain ⟨t, ht, hadv, hflags, hrest⟩ :=
      State.setFlags_advance (op.dpOp.flags s (x.first s rn) (x.out s)) hpc
    refine ⟨t, congrArg Attempt.outcome ht, hadv, ?_, hrest⟩
    cases op with
    | tst | teq => rwa [DpOp.flags_of_logical rfl] at hflags
    | cmp | cmn => rwa [DpOp.flags_of_arith rfl] at hflags
  · rw [State.setFlags_wrap _ hpc, Attempt.outcome_refused]

/-! ## The return from an exception (R113, R255) -/

theorem State.exceptionReturn_of_none {s : State} (h : s.spsrOf s.bank = none) (v : Word) :
    s.exceptionReturn v = .refused .noSpsr := by
  rw [State.exceptionReturn, h]

/-- A return is the write of R15, then the load of the CPSR. -/
theorem State.exceptionReturn_of_some {s : State} {p : Word} (h : s.spsrOf s.bank = some p) (v : Word) :
    s.exceptionReturn v = (s.writePc v).andThen fun t => t.loadCpsr p := by
  rw [State.exceptionReturn, h]

/-- A return to an aligned address is the load of the CPSR after the jump. -/
theorem State.exceptionReturn_of_aligned {s : State} {p v : Word} (h : s.spsrOf s.bank = some p)
    (hv : wordAligned v = true) : s.exceptionReturn v = (s.jump v).loadCpsr p := by
  rw [State.exceptionReturn_of_some h, State.writePc_of_aligned hv, Attempt.andThen_ok]

theorem State.exceptionReturn_of_misaligned {s : State} {p v : Word} (h : s.spsrOf s.bank = some p)
    (hv : wordAligned v = false) : s.exceptionReturn v = .refused .misalignedPc := by
  rw [State.exceptionReturn_of_some h, State.writePc_of_misaligned hv, Attempt.andThen_refused]

theorem State.loadCpsr_of_thumb {s : State} {p : Word} (h : psrT p = true) : s.loadCpsr p = .refused .thumbState := by
  rw [State.loadCpsr, h]
  rfl

theorem State.loadCpsr_of_noMode {s : State} {p : Word} (harm : psrT p = false) (h : Mode.ofBits (psrM p) = none) :
    s.loadCpsr p = .refused .illegalMode := by
  rw [State.loadCpsr, harm, h]
  rfl

theorem frame_jump_setCpsr (s : State) (v p : Word) : Frame s ((s.jump v).setCpsr p) [] := frame_jump s v

/-! ## Rd = R15 (R113) -/

/-- Settles O25: without S the result goes to the pc. -/
theorem dataProcessingJump : Obligations.DataProcessingJump := by
  intro op x c rn s h
  rw [DpOp.exec_eq_dpWrite h, dpWrite_jump]
  refine ⟨fun hal => ?_, fun hal => ?_⟩
  · rw [State.writePc_of_aligned hal]
    exact ⟨_, rfl, ⟨rfl, rfl⟩, rfl, frame_jump s _, sameBytes_refl s⟩
  · rw [State.writePc_of_misaligned hal, Attempt.outcome_refused]

/-- Settles O26: with S it is a return, whose four refusals are those of its two parts. -/
theorem dataProcessingReturn : Obligations.DataProcessingReturn := by
  intro op x c rn s h
  rw [DpOp.exec_eq_dpWrite h, dpWrite_return]
  refine ⟨fun hnone => by rw [State.exceptionReturn_of_none hnone, Attempt.outcome_refused], fun saved hsaved =>
    ⟨fun hal => by rw [State.exceptionReturn_of_misaligned hsaved hal, Attempt.outcome_refused], fun hal => ?_⟩⟩
  rw [State.exceptionReturn_of_aligned hsaved hal]
  refine ⟨fun hthumb => ?_, fun harm hmode => ?_, fun harm hmode => ?_⟩
  · rw [State.loadCpsr_of_thumb hthumb, Attempt.outcome_refused]
  · rw [State.loadCpsr_of_noMode harm hmode, Attempt.outcome_refused]
  · rw [State.loadCpsr_eq_ok.mpr ⟨harm, Option.isSome_iff_ne_none.mpr hmode, rfl⟩]
    exact ⟨_, rfl, ⟨rfl, rfl⟩, rfl, frame_jump_setCpsr s _ saved, sameBytes_refl s⟩

end Sys2Proof.Machine
end

section
/-! PROOFS. PSR transfer (42_psr_transfer.md): which bits an MSR writes, as a merge under a mask of whole bytes cut down to
the bits that can be written, and what MRS and MSR do with them. -/

namespace Sys2Proof.Machine

/-! ## A merge under the field mask (R142)

Every MSR merges its operand under `fieldMask fields &&& k`, where `k` holds the bits it can write at all. -/

section
variable {k : Word} (old new : Word) (fields : BitVec 4)

/-- A bit that can be written comes from the operand where the mask selects its byte. -/
theorem getLsbD_merge_of_written {i : Nat} (hk : k.getLsbD i = true) (hi : i < 32) :
    (mergeBits old new (fieldMask fields &&& k)).getLsbD i =
      if fields.getLsbD (i / 8) then new.getLsbD i else old.getLsbD i := by
  rw [getLsbD_mergeBits, BitVec.getLsbD_and, getLsbD_fieldMask _ _ hi, hk, Bool.and_true]

/-- A bit that cannot be written is kept. -/
theorem getLsbD_merge_of_kept {i : Nat} (hk : k.getLsbD i = false) :
    (mergeBits old new (fieldMask fields &&& k)).getLsbD i = old.getLsbD i := by
  rw [getLsbD_mergeBits, BitVec.getLsbD_and, hk, Bool.and_false, if_neg Bool.false_ne_true]

theorem field_merge_of_written {lo n j : Nat} (hk : field k lo n = BitVec.allOnes n) (hlo : 8 * j ≤ lo)
    (hhi : lo + n ≤ 8 * j + 8) (hj : j < 4) :
    field (mergeBits old new (fieldMask fields &&& k)) lo n =
      if fields.getLsbD j then field new lo n else field old lo n := by
  apply BitVec.eq_of_getLsbD_eq
  intro i hi
  have hbit : k.getLsbD (lo + i) = true := by rw [getLsbD_of_field hk i hi, BitVec.getLsbD_allOnes, decide_eq_true hi]
  have hbyte : (lo + i) / 8 = j := by omega
  rw [getLsbD_field, getLsbD_merge_of_written _ _ _ hbit (by omega), hbyte]
  cases fields.getLsbD j <;> simp [hi]

theorem field_merge_of_kept {lo n : Nat} (hk : field k lo n = 0#n) :
    field (mergeBits old new (fieldMask fields &&& k)) lo n = field old lo n := by
  apply BitVec.eq_of_getLsbD_eq
  intro i hi
  have hbit : k.getLsbD (lo + i) = false := by rw [getLsbD_of_field hk i hi, BitVec.getLsbD_zero]
  rw [getLsbD_field, getLsbD_field, getLsbD_merge_of_kept _ _ _ hbit]

/-- The flags are the four top bits (R31). -/
theorem psrFlags_of_top {p q : Word} (h : field p 28 4 = field q 28 4) : psrFlags p = psrFlags q := by
  have hbit (i : Nat) (hi : i < 4) : p.getLsbD (28 + i) = q.getLsbD (28 + i) := by
    rw [getLsbD_of_field h i hi, getLsbD_of_field rfl i hi]
  rw [psrFlags, psrFlags, Nzcv.mk.injEq]
  exact ⟨hbit 3 (by decide), hbit 2 (by decide), hbit 1 (by decide), hbit 0 (by decide)⟩

theorem psrFlags_merge (hk : field k 28 4 = BitVec.allOnes 4) :
    psrFlags (mergeBits old new (fieldMask fields &&& k)) =
      if fields.getLsbD 3 then psrFlags new else psrFlags old := by
  have htop := field_merge_of_written old new fields (j := 3) hk (by decide) (by decide) (by decide)
  split <;> rename_i hf
  · exact psrFlags_of_top (htop.trans (if_pos hf))
  · exact psrFlags_of_top (htop.trans (if_neg hf))

end

/-! ## MRS (R141) -/

/-- What MRS comes to: a status register read, then Rd written. -/
theorem exec_mrs {c : Cond} {spsr : Bool} {rd : Reg} {s : State} (h : runs (.mrs c spsr rd) s = true) :
    exec (.mrs c spsr rd) s = ((readPsr s spsr).andThen fun v => (s.setReg rd v).advance).outcome :=
  (exec_of_runs h rfl).trans (congrArg _ (require_of_true ((runs_iff _ s).mp h).2 _ _))

theorem readPsr_cpsr (s : State) : readPsr s false = .ok s.cpsr := rfl

theorem readPsr_of_some {s : State} {saved : Word} (h : s.spsrOf s.bank = some saved) : readPsr s true = .ok saved := by
  rw [readPsr, if_pos rfl, h]

theorem readPsr_of_none {s : State} (h : s.spsrOf s.bank = none) : readPsr s true = .refused .noSpsr := by
  rw [readPsr, if_pos rfl, h]

/-- MRS of a status register that is there writes its value to Rd. -/
theorem exec_mrs_of_read {c : Cond} {spsr : Bool} {rd : Reg} {s : State} {v : Word}
    (h : runs (.mrs c spsr rd) s = true) (hpc : fallsThrough s = true) (hv : readPsr s spsr = .ok v) :
    ∃ t, exec (.mrs c spsr rd) s = .next t ∧ t.phys (physReg s.bank rd) = v ∧ Plain s t [physReg s.bank rd] := by
  obtain ⟨t, ht, hdone⟩ := State.setReg_advance rd v hpc
  refine ⟨t, ?_, hdone⟩
  rw [exec_mrs h, hv, Attempt.andThen_ok, ht, Attempt.outcome_ok]

/-- Settles O29: the SPSR bit of the instruction has no part in whether it runs, so both forms do. -/
theorem mrsReadsStatus : Obligations.MrsReadsStatus := by
  intro c rd s h hpc
  have hspsr : runs (.mrs c true rd) s = true := h
  refine ⟨exec_mrs_of_read h hpc (readPsr_cpsr s),
    fun saved hsaved => exec_mrs_of_read hspsr hpc (readPsr_of_some hsaved), fun hnone => ?_⟩
  rw [exec_mrs hspsr, readPsr_of_none hnone, Attempt.andThen_refused, Attempt.outcome_refused]

/-! ## MSR (R142) -/

/-- What MSR comes to, in either form of its operand. -/
theorem exec_msr {x : MsrOperand} {c : Cond} {spsr : Bool} {fields : BitVec 4} {s : State}
    (h : runs (x.instr c spsr fields) s = true) :
    exec (x.instr c spsr fields) s = (msr s spsr fields (x.value s)).outcome := by
  obtain ⟨_, hwf⟩ := (runs_iff _ s).mp h
  cases x with
  | reg rm =>
    have hne : rm ≠ 15#4 := isPc_eq_false.mp ((Bool.not_eq_true' _).mp hwf)
    rw [MsrOperand.value, ← s.reg_of_ne hne]
    exact (exec_of_runs h rfl).trans (congrArg _ (require_of_true hwf _ _))
  | imm rot imm8 => exact exec_of_runs h rfl

theorem msr_cpsr (s : State) (fields : BitVec 4) (v : Word) :
    msr s false fields v = (writeCpsrFields s fields v).andThen State.advance := rfl

theorem msr_spsr (s : State) (fields : BitVec 4) (v : Word) :
    msr s true fields v = (writeSpsrFields s fields v).andThen State.advance := rfl

/-! ## The CPSR written -/

/-- The CPSR written, the pc advanced, nothing else. -/
theorem State.setCpsr_advance {s : State} (v : Word) (hpc : fallsThrough s = true) :
    ∃ t, (s.setCpsr v).advance = .ok t ∧ t.cpsr = v ∧ Advances s t ∧ Frame s t [] ∧ SameBytes s t :=
  ⟨_, State.advance_of_ne (s := s.setCpsr v) ((fallsThrough_iff s).mp hpc), rfl, ⟨rfl, rfl⟩, frame_pc s (s.pc + 4),
    sameBytes_refl s⟩

/-- A privileged mode writes the bytes selected, T and the reserved bits apart. -/
def privilegedCpsr (s : State) (fields : BitVec 4) (v : Word) : Word :=
  mergeBits s.cpsr v (fieldMask fields &&& 0xF00000DF#32)

section
variable {s : State} {fields : BitVec 4} {v : Word}

theorem cpsrMask_of_privileged (h : psrM s.cpsr ≠ 0b10000#5) : cpsrMask s fields = fieldMask fields := if_neg h

theorem cpsrMask_of_user (h : psrM s.cpsr = 0b10000#5) : cpsrMask s fields = fieldMask fields &&& 0xFF000000#32 :=
  if_pos h

/-- In a privileged mode the control byte is in the mask exactly where bit 0 of the fields is set. -/
theorem field_cpsrMask_of_privileged (h : psrM s.cpsr ≠ 0b10000#5) :
    field (cpsrMask s fields) 0 8 = 0#8 ↔ fields.getLsbD 0 = false := by
  rw [field_cpsrMask_eq_zero_iff, cpsrMask_of_privileged h, getLsbD_fieldMask _ _ (by decide)]

theorem writeCpsrFields_of_control (h : psrM s.cpsr ≠ 0b10000#5) (h0 : fields.getLsbD 0 = true) :
    writeCpsrFields s fields v =
      require (psrT v == psrT s.cpsr) .thumbState
        (require (Mode.ofBits (psrM v)).isSome .illegalMode (.ok (s.setCpsr (privilegedCpsr s fields v)))) := by
  have hctl : field (cpsrMask s fields) 0 8 ≠ 0#8 := mt (field_cpsrMask_of_privileged h).mp (ne_false_of_eq_true h0)
  rw [privilegedCpsr, ← cpsrMask_of_privileged h]
  exact if_neg hctl

theorem writeCpsrFields_of_noControl (h : psrM s.cpsr ≠ 0b10000#5) (h0 : fields.getLsbD 0 = false) :
    writeCpsrFields s fields v = .ok (s.setCpsr (privilegedCpsr s fields v)) := by
  rw [privilegedCpsr, ← cpsrMask_of_privileged h]
  exact if_pos ((field_cpsrMask_of_privileged h).mpr h0)

/-- In a privileged mode the write is made where the control byte is left out, or keeps T and names a mode. -/
theorem writeCpsrFields_of_allowed (h : psrM s.cpsr ≠ 0b10000#5)
    (hctl : fields.getLsbD 0 = true → psrT v = psrT s.cpsr ∧ Mode.ofBits (psrM v) ≠ none) :
    writeCpsrFields s fields v = .ok (s.setCpsr (privilegedCpsr s fields v)) := by
  cases h0 : fields.getLsbD 0 with
  | false => exact writeCpsrFields_of_noControl h h0
  | true =>
    obtain ⟨hthumb, hmode⟩ := hctl h0
    rw [writeCpsrFields_of_control h h0, require_of_true (beq_iff_eq.mpr hthumb),
      require_of_true (Option.isSome_iff_ne_none.mpr hmode)]

/-- User mode writes the flags and is never refused, since the control byte is out of its reach (R261). -/
theorem writeCpsrFields_of_user (h : psrM s.cpsr = 0b10000#5) :
    writeCpsrFields s fields v = .ok (s.setCpsr (mergeBits s.cpsr v (fieldMask fields &&& 0xF0000000#32))) := by
  have hctl : field (cpsrMask s fields) 0 8 = 0#8 := by
    rw [field_cpsrMask_eq_zero_iff, cpsrMask_of_user h, BitVec.getLsbD_and]
    exact Bool.and_false _
  have hmask : cpsrMask s fields &&& 0xF00000DF#32 = fieldMask fields &&& 0xF0000000#32 := by
    rw [cpsrMask_of_user h, BitVec.and_assoc]
    rfl
  simp only [writeCpsrFields, if_pos hctl, hmask]

end

/-- Settles O30: the two refusals are the checks of the control byte, and past them the write goes byte by byte. -/
theorem msrWritesCpsr : Obligations.MsrWritesCpsr := by
  intro x c fields s hpriv h
  rw [exec_msr h, msr_cpsr]
  refine ⟨fun h0 hthumb => ?_, fun h0 hthumb hmode => ?_, fun hpc hctl => ?_⟩
  · rw [writeCpsrFields_of_control hpriv h0, beq_false_of_ne hthumb]
    rfl
  · rw [writeCpsrFields_of_control hpriv h0, require_of_true (beq_iff_eq.mpr hthumb), hmode]
    rfl
  · obtain ⟨t, ht, hcpsr, hadv, hrest⟩ := State.setCpsr_advance (privilegedCpsr s fields (x.value s)) hpc
    rw [writeCpsrFields_of_allowed hpriv hctl, Attempt.andThen_ok, ht, Attempt.outcome_ok]
    refine ⟨t, rfl, hadv, ?_, ?_, ?_, ?_, ?_, ?_, hrest⟩ <;> rw [hcpsr, privilegedCpsr]
    · exact psrFlags_merge _ _ _ rfl
    · exact field_merge_of_kept _ _ _ rfl
    · exact getLsbD_merge_of_written _ _ _ rfl (by decide)
    · exact getLsbD_merge_of_written _ _ _ rfl (by decide)
    · exact getLsbD_merge_of_kept _ _ _ rfl
    · exact field_merge_of_written _ _ _ (j := 0) rfl (by decide) (by decide) (by decide)

/-- Settles O31: bits 31:28 are all that User mode can write. -/
theorem msrInUserMode : Obligations.MsrInUserMode := by
  intro x c fields s husr h hpc
  obtain ⟨t, ht, hcpsr, hadv, hrest⟩ :=
    State.setCpsr_advance (mergeBits s.cpsr (x.value s) (fieldMask fields &&& 0xF0000000#32)) hpc
  rw [exec_msr h, msr_cpsr, writeCpsrFields_of_user husr, Attempt.andThen_ok, ht, Attempt.outcome_ok]
  refine ⟨t, rfl, hadv, ⟨?_, ?_⟩, hrest⟩ <;> rw [hcpsr]
  · exact psrFlags_merge _ _ _ rfl
  · exact field_merge_of_kept _ _ _ rfl

/-! ## The SPSR written -/

theorem State.bank_ne_usr_of_spsr {s : State} {b : Bank} {p : Word} (h : s.spsrOf b = some p) : b ≠ .usr := by
  rintro rfl
  cases h

/-- The SPSR of a bank that has one written, the pc advanced, nothing else. -/
theorem State.setSpsr_advance {s : State} {b : Bank} (v : Word) (hb : b ≠ .usr) (hpc : fallsThrough s = true) :
    ∃ t, (s.setSpsr b v).advance = .ok t ∧ t.spsrOf b = some v ∧ (∀ a, a ≠ b → t.spsrOf a = s.spsrOf a) ∧
      Advances s t ∧ t.cpsr = s.cpsr ∧ OnlyRegs s t [] ∧ SameSurroundings s t ∧ t.draws = s.draws ∧ SameBytes s t := by
  have hne : (s.setSpsr b v).pc ≠ 0xFFFFFFFC#32 := by
    rw [State.setSpsr_pc]
    exact (fallsThrough_iff s).mp hpc
  refine ⟨_, State.advance_of_ne hne, ?_, fun a ha => ?_, ?_, ?_, ?_, ?_, ?_, ?_⟩
  · exact State.setSpsr_spsrOf_self s b v hb
  · exact State.setSpsr_spsrOf_ne s b a v ha
  · exact ⟨by simp, by simp⟩
  · simp
  · exact onlyRegs_setSpsr s b v
  · exact ⟨by simp, by simp, by simp⟩
  · simp
  · exact fun a => by simp

theorem writeSpsrFields_of_none {s : State} (h : s.spsrOf s.bank = none) (fields : BitVec 4) (v : Word) :
    writeSpsrFields s fields v = .refused .noSpsr := by
  rw [writeSpsrFields, h]

theorem writeSpsrFields_of_some {s : State} {old : Word} (h : s.spsrOf s.bank = some old) (fields : BitVec 4) (v : Word) :
    writeSpsrFields s fields v = .ok (s.setSpsr s.bank (mergeBits old v (fieldMask fields &&& psrImplemented))) := by
  rw [writeSpsrFields, h]

/-- Settles O32: the flags and the control byte whole can be written, bits 27:8 cannot. -/
theorem msrWritesSpsr : Obligations.MsrWritesSpsr := by
  intro x c fields s h hpc
  rw [exec_msr h, msr_spsr]
  refine ⟨fun hnone => ?_, fun old hold => ?_⟩
  · rw [writeSpsrFields_of_none hnone, Attempt.andThen_refused, Attempt.outcome_refused]
  · obtain ⟨t, ht, hspsr, hrest⟩ := State.setSpsr_advance
      (mergeBits old (x.value s) (fieldMask fields &&& psrImplemented)) (State.bank_ne_usr_of_spsr hold) hpc
    rw [writeSpsrFields_of_some hold, Attempt.andThen_ok, ht, Attempt.outcome_ok]
    exact ⟨t, _, rfl, hspsr, psrFlags_merge _ _ _ rfl, field_merge_of_kept _ _ _ rfl,
      field_merge_of_written _ _ _ (j := 0) rfl (by decide) (by decide) (by decide), hrest⟩

end Sys2Proof.Machine
end

section
/-! PROOFS. Single data transfer (43_single_data_transfer.md): the addresses and bases of the transfers, and LDR, STR, LDRB
and STRB in both forms of their offset as the datum moved and then the ending of `Laws/Transfers`. -/

namespace Sys2Proof.Machine

/-! ## Addresses and bases (R153, R172, R212) -/

section
variable (s : State) (rn : Reg) (offset : Word)

theorem toNat_transferTarget_up :
    (transferTarget s true rn offset).toNat = ((s.reg rn).toNat + offset.toNat) % 4294967296 :=
  BitVec.toNat_add ..

theorem transferTarget_down_add : transferTarget s false rn offset + offset = s.reg rn :=
  BitVec.sub_add_cancel ..

theorem transferAddress_preIndexed (u : Bool) : transferAddress s true u rn offset = transferTarget s u rn offset := rfl

theorem transferAddress_postIndexed (u : Bool) : transferAddress s false u rn offset = s.reg rn := rfl

end

theorem blockBytes_eq_count (list : BitVec 16) : blockBytes list = BitVec.ofNat 32 (4 * count list) := by
  rw [blockBytes, length_regsOf]

theorem blockStart_da_add (base : Word) (list : BitVec 16) : blockStart .da base list + blockBytes list = base + 4 :=
  (add_right_comm (base - blockBytes list) 4 (blockBytes list)).trans
    (congrArg (· + 4) (BitVec.sub_add_cancel base (blockBytes list)))

theorem blockStart_db_add (base : Word) (list : BitVec 16) : blockStart .db base list + blockBytes list = base :=
  BitVec.sub_add_cancel ..

/-- Settles O33: a base moved down, and moved up again by as much, is back where it was. -/
theorem transferAddresses : Obligations.TransferAddresses := by
  refine ⟨fun s u rn offset base hbase => ?_, fun base list => ?_⟩
  · rw [← s.reg_eq_ite] at hbase
    subst hbase
    exact ⟨toNat_transferTarget_up s rn offset, transferTarget_down_add s rn offset,
      transferAddress_preIndexed s rn offset u, transferAddress_postIndexed s rn offset u⟩
  · rw [← blockBytes_eq_count]
    exact ⟨rfl, rfl, blockStart_da_add base list, blockStart_db_add base list, rfl, rfl, blockStart_db_add base list,
      blockStart_db_add base list⟩

/-! ## The operand combinations let through (R158) -/

section
variable {byte p w : Bool} {rn rd : Reg}

theorem singleImmOk_iff : singleImmOk byte p w rn rd = true ↔
    writeBackOk p w rn rd = true ∧ (byte = true → rd ≠ 15#4) := by
  rw [singleImmOk, Bool.and_eq_true]
  cases byte <;> simp [isPc]

/-- The operand combinations the spec lets through, with this form of the offset. -/
def WordOffset.allowed (x : WordOffset) (byte p w : Bool) (rn rd : Reg) : Bool :=
  match x with
  | .imm _ => singleImmOk byte p w rn rd
  | .reg _ _ rm => singleRegOk byte p w rn rd rm

/-- The register form makes the checks of the immediate form, and more. -/
theorem WordOffset.singleImmOk_of_allowed {x : WordOffset} (h : x.allowed byte p w rn rd = true) :
    singleImmOk byte p w rn rd = true := by
  cases x with
  | imm off => exact h
  | reg amt sh rm =>
    simp only [WordOffset.allowed, singleRegOk, Bool.and_eq_true] at h
    obtain ⟨⟨hok, _⟩, _⟩ := h
    exact hok

theorem WordOffset.wellFormed_ldr (x : WordOffset) (c : Cond) (p u w : Bool) (rn rd : Reg) :
    (x.ldr c p u w rn rd).wellFormed = (!userTransfer p w && x.allowed false p w rn rd) := by
  cases x <;> rfl

theorem WordOffset.wellFormed_ldrb (x : WordOffset) (c : Cond) (p u w : Bool) (rn rd : Reg) :
    (x.ldrb c p u w rn rd).wellFormed = (!userTransfer p w && x.allowed true p w rn rd) := by
  cases x <;> rfl

variable {c : Cond} {u : Bool} {s : State} {x : WordOffset}

theorem writeBackOk_of_runs_ldr (h : runs (x.ldr c p u w rn rd) s = true) : writeBackOk p w rn rd = true := by
  obtain ⟨_, hwf⟩ := (runs_iff _ s).mp h
  rw [x.wellFormed_ldr, Bool.and_eq_true] at hwf
  exact (singleImmOk_iff.mp (WordOffset.singleImmOk_of_allowed hwf.2)).1

theorem writeBackOk_and_ne_of_runs_ldrb (h : runs (x.ldrb c p u w rn rd) s = true) :
    writeBackOk p w rn rd = true ∧ rd ≠ 15#4 := by
  obtain ⟨_, hwf⟩ := (runs_iff _ s).mp h
  rw [x.wellFormed_ldrb, Bool.and_eq_true] at hwf
  exact (singleImmOk_iff.mp (WordOffset.singleImmOk_of_allowed hwf.2)).imp id (· rfl)

end

/-! ## The datum moved, and the ending (R154 to R157) -/

section
variable {s : State} {p u : Bool} {rn : Reg} {offset : Word} (w : Bool) (rd : Reg)

theorem loadSingle_word (hal : wordAccessOk s (transferAddress s p u rn offset) = true)
    (hr : readable s (alignDown (transferAddress s p u rn offset)) 4 = true) :
    loadSingle s false p u w rn rd offset =
      (writeBack s p w rn (transferTarget s u rn offset)).putReg rd
        (loadedWord s (transferAddress s p u rn offset)) := by
  rw [loadSingle, if_neg Bool.false_ne_true, State.loadWord_ok hal hr, Attempt.andThen_ok]

theorem loadSingle_byte (hr : readable s (transferAddress s p u rn offset) 1 = true) :
    loadSingle s true p u w rn rd offset =
      (writeBack s p w rn (transferTarget s u rn offset)).putReg rd
        ((s.mem.read (transferAddress s p u rn offset)).zeroExtend 32) := by
  rw [loadSingle, if_pos rfl, State.loadByte_ok hr, Attempt.andThen_ok, Attempt.andThen_ok]

theorem storeSingle_word (hal : wordAccessOk s (transferAddress s p u rn offset) = true)
    (hw : writable s (alignDown (transferAddress s p u rn offset)) 4 = true) :
    storeSingle s false p u w rn rd offset =
      (writeBack (s.setMem (s.mem.setWord s.platform.bigEndian (alignDown (transferAddress s p u rn offset))
        (s.reg12 rd))) p w rn (transferTarget s u rn offset)).advance := by
  rw [storeSingle, if_neg Bool.false_ne_true, State.storeWord_eq_ok.mpr ⟨hal, hw, rfl⟩, Attempt.andThen_ok]

theorem storeSingle_byte (hw : writable s (transferAddress s p u rn offset) 1 = true) :
    storeSingle s true p u w rn rd offset =
      (writeBack (s.setMem (s.mem.write (transferAddress s p u rn offset) (field (s.reg12 rd) 0 8))) p w rn
        (transferTarget s u rn offset)).advance := by
  rw [storeSingle, if_pos rfl, State.storeByte_eq_ok.mpr ⟨hw, rfl⟩, Attempt.andThen_ok]

end

/-! ## Loads -/

/-- A byte zero-extended keeps its value. -/
theorem toNat_zeroExtend_byte (b : Byte) : (b.zeroExtend 32).toNat = b.toNat :=
  BitVec.toNat_setWidth_of_le (by decide)

/-- Settles O34: the write-back goes to another register than Rd, so both hold what was written. -/
theorem ldrLoadsWord : Obligations.LdrLoadsWord := by
  intro x c p u w rn rd s hrd h hpc hal hr
  obtain ⟨t, ht, hdone⟩ := State.loadEnd u (x.value s) (loadedWord s _) hrd (writeBackOk_of_runs_ldr h) hpc
  refine ⟨t, ?_, hdone⟩
  rw [exec_ldr h, loadSingle_word w rd hal hr, ht, Attempt.outcome_ok]

/-- Settles O35: the word loaded is written to R15, which tests its alignment. -/
theorem ldrJumps : Obligations.LdrJumps := by
  intro x c p u w rn s h hal hr
  rw [exec_ldr h, loadSingle_word w _ hal hr]
  refine ⟨fun hv => ?_, fun hv => ?_⟩
  · obtain ⟨t, ht, hdone⟩ := State.jumpEnd (s := s) (p := p) (w := w) u (rn := rn) (x.value s) _ hv
    exact ⟨t, by rw [ht, Attempt.outcome_ok], hdone⟩
  · rw [State.putReg_pc, State.writePc_of_misaligned hv, Attempt.outcome_refused]

/-- Settles O36: an LDRB that runs has an Rd other than R15. -/
theorem ldrbLoadsByte : Obligations.LdrbLoadsByte := by
  intro x c p u w rn rd s h hpc hr
  obtain ⟨hwb, hrd⟩ := writeBackOk_and_ne_of_runs_ldrb h
  obtain ⟨t, ht, hv, hdone⟩ :=
    State.loadEnd u (x.value s) ((s.mem.read (transferAddress s p u rn (x.value s))).zeroExtend 32) hrd hwb hpc
  refine ⟨t, ?_, ?_, hdone⟩
  · rw [exec_ldrb h, loadSingle_byte w rd hr, ht, Attempt.outcome_ok]
  · rw [hv, toNat_zeroExtend_byte]

/-! ## Stores -/

/-- Settles O37: the word stored reads back whole, and the write-back leaves memory alone. -/
theorem strStoresWord : Obligations.StrStoresWord := by
  intro x c p u w rn rd s hm h hpc hal hw
  rw [← s.reg12_eq_ite, exec_str h, storeSingle_word w rd hal hw]
  obtain ⟨t, ht, hmem, hdone⟩ := State.storeEnd (p := p) (w := w) u (rn := rn) (x.value s)
    (s.mem.setWord s.platform.bigEndian (alignDown (transferAddress s p u rn (x.value s))) (s.reg12 rd)) hpc
  refine ⟨t, by rw [ht, Attempt.outcome_ok], ?_, fun b hb => ?_, hdone⟩
  · rw [hmem, Memory.word_setWord hm]
  · rw [hmem, Memory.read_setWord_outside _ _ _ _ _ hb]

/-- Settles O38: the byte stored reads back, and the write-back leaves memory alone. -/
theorem strbStoresByte : Obligations.StrbStoresByte := by
  intro x c p u w rn rd s hm h hpc hw
  rw [← s.reg12_eq_ite, exec_strb h, storeSingle_byte w rd hw]
  obtain ⟨t, ht, hmem, hdone⟩ := State.storeEnd (p := p) (w := w) u (rn := rn) (x.value s)
    (s.mem.write (transferAddress s p u rn (x.value s)) (field (s.reg12 rd) 0 8)) hpc
  refine ⟨t, by rw [ht, Attempt.outcome_ok], ?_, fun b hb => ?_, hdone⟩
  · rw [hmem, Memory.read_write_self hm]
  · have hne : transferAddress s p u rn (x.value s) ≠ b := fun e => hb (e ▸ List.mem_cons_self)
    rw [hmem, Memory.read_write_ne _ _ hne]

end Sys2Proof.Machine
end

section
/-! PROOFS. Block loads (44_block_data_transfer.md): where each word of the list is, the registers and the base loaded
before the ending, and the three endings of LDM: the pc advanced, the jump, the return from an exception. -/

namespace Sys2Proof.Machine

/-! ## The refusals before the transfer (R36, R173, R176 to R178) -/

theorem hasSpsr_of_spsrOf_none {s : State} (h : s.spsrOf s.bank = none) : hasSpsr s = false := by
  cases hb : s.bank with
  | usr => simp [hasSpsr, hb]
  | fiq | svc | abt | irq | und => rw [hb] at h; cases h

theorem hasSpsr_of_spsrOf_some {s : State} {saved : Word} (h : s.spsrOf s.bank = some saved) : hasSpsr s = true :=
  decide_eq_true (State.bank_ne_usr_of_spsr h)

/-- The User-bank form in User or System mode is refused before a word is moved (D24). -/
theorem checkedBlock_userBank {s : State} {load sb w : Bool} {rn : Reg} {list : BitVec 16} {k : Attempt State}
    (hs : hasSpsr s = false) (huser : usesUserBank load sb list = true) (hblock : blockOk w rn list = true) :
    checkedBlock s load sb w rn list k = .refused .userBankForm := by
  have hbank : s.bank = .usr := by simpa [hasSpsr] using hs
  have hmode : userBankModeOk s load sb list = false := by simp [userBankModeOk, huser, hbank]
  rw [checkedBlock, require_of_true hblock, hmode, Bool.and_false, require_false]

/-- Where the base is written back it is a register of its own: not R15, not in the list (R174, R178). -/
theorem base_of_blockOk {rn : Reg} {list : BitVec 16} (h : blockOk true rn list = true) :
    rn ≠ 15#4 ∧ list.getLsbD rn.toNat = false := by
  simp only [blockOk, Bool.true_and, Bool.and_eq_true, Bool.not_eq_true'] at h
  obtain ⟨⟨_, hpc⟩, hlist⟩ := h
  exact ⟨isPc_eq_false.mp hpc, hlist⟩

section
variable {m : BlockMode} {c : Cond} {sb w : Bool} {rn : Reg} {list : BitVec 16} {s : State}

theorem exec_ldm_checked (h : runs (m.ldm c sb w rn list) s = true) :
    exec (m.ldm c sb w rn list) s = (checkedBlock s true sb w rn list (ldm s m sb w rn list)).outcome := by
  cases m <;> exact exec_of_runs h rfl

theorem blockOk_of_runs_ldm (h : runs (m.ldm c sb w rn list) s = true) :
    blockOk w rn list = true ∧ userBankOk true sb w list = true := by
  obtain ⟨_, hwf⟩ := (runs_iff _ s).mp h
  cases m <;> exact (Bool.and_eq_true _ _).mp hwf

/-- The User-bank form of LDM is `^` without R15 (R173, R177). -/
theorem usesUserBank_ldm (hpc : list.getLsbD 15 = false) : usesUserBank true sb list = sb := by
  rw [usesUserBank, listHasPc, hpc]
  exact Bool.and_true sb

/-- LDM with R15 loads the registers of the mode it started in (R173, R176). -/
theorem usesUserBank_ldm_pc (hpc : list.getLsbD 15 = true) : usesUserBank true sb list = false := by
  rw [usesUserBank, listHasPc, hpc]
  exact Bool.and_false sb

end

/-! ## The words of the list (R172) -/

theorem rank_getElem_regsOf (list : BitVec 16) {k : Nat} (hk : k < (regsOf list).length) :
    rank list (regsOf list)[k] = k := by
  obtain ⟨r, hr, hrank⟩ := exists_rank list k (hk.trans_eq (length_regsOf list))
  obtain ⟨_, hget⟩ := List.getElem?_eq_some_iff.mp (hrank ▸ regsOf_getElem?_rank list r hr)
  rw [hget, hrank]

theorem getLast?_regsOf {list : BitVec 16} (h : list.getLsbD 15 = true) : (regsOf list).getLast? = some 15#4 := by
  have hlast : (regsOf list).length - 1 = rank list 15#4 := by
    rw [length_regsOf, ← rank_pc list h, Nat.add_sub_cancel]
  rw [List.getLast?_eq_getElem?, hlast]
  exact regsOf_getElem?_rank list 15#4 h

section
variable {s : State} {m : BlockMode} {rn : Reg} {list : BitVec 16}

theorem slot_getElem_regsOf {k : Nat} (hk : k < (regsOf list).length) :
    slot s m rn list (regsOf list)[k] = blockStart m (alignDown (s.reg rn)) list + BitVec.ofNat 32 (4 * k) := by
  rw [slot, rank_getElem_regsOf]

theorem loadWords_slots (h : blockReadable s m rn list) :
    s.loadWords (blockStart m (alignDown (s.reg rn)) list) (regsOf list).length =
      .ok ((regsOf list).map (slotWord s m rn list)) := by
  rw [State.loadWords_ok fun k hk => ?_]
  · refine congrArg Attempt.ok (List.ext_getElem (by simp) fun k hk _ => ?_)
    have hk' : k < (regsOf list).length := by simpa using hk
    simp only [List.getElem_map, List.getElem_range, slotWord, slot_getElem_regsOf hk']
  · rw [← slot_getElem_regsOf hk]
    exact h _ ((mem_regsOf list _).mp (List.getElem_mem hk))

theorem getLastD_slotWords (h : list.getLsbD 15 = true) :
    ((regsOf list).map (slotWord s m rn list)).getLastD 0 = slotWord s m rn list 15#4 := by
  rw [List.getLastD_eq_getLast?, List.getLast?_map, getLast?_regsOf h]
  rfl

end

/-! ## The state before the ending (R173, R174) -/

/-- The base written back, then the registers of the list loaded from their slots. -/
def blockLoaded (s : State) (m : BlockMode) (sb w : Bool) (rn : Reg) (list : BitVec 16) : State :=
  writeLoaded (writeBack s true w rn (blockFinal m (s.reg rn) list)) (usesUserBank true sb list) (regsOf list)
    ((regsOf list).map (slotWord s m rn list))

section
variable {s : State} {m : BlockMode} {sb w : Bool} {rn : Reg} {list : BitVec 16}

theorem ldm_eq_blockLoaded (ha : wordAccessOk s (s.reg rn) = true) (hr : blockReadable s m rn list) :
    ldm s m sb w rn list =
      if list.getLsbD 15 then
        if sb then
          (blockLoaded s m sb w rn list).exceptionReturn (((regsOf list).map (slotWord s m rn list)).getLastD 0)
        else (blockLoaded s m sb w rn list).writePc (((regsOf list).map (slotWord s m rn list)).getLastD 0)
      else (blockLoaded s m sb w rn list).advance := by
  rw [ldm, State.wordAddress_of_ok ha, Attempt.andThen_ok, loadWords_slots hr, Attempt.andThen_ok]
  rfl

theorem ldm_advances (hpc : list.getLsbD 15 = false) (ha : wordAccessOk s (s.reg rn) = true)
    (hr : blockReadable s m rn list) : ldm s m sb w rn list = (blockLoaded s m sb w rn list).advance := by
  rw [ldm_eq_blockLoaded ha hr, hpc, if_neg Bool.false_ne_true]

theorem ldm_jumps (hpc : list.getLsbD 15 = true) (ha : wordAccessOk s (s.reg rn) = true)
    (hr : blockReadable s m rn list) :
    ldm s m false w rn list = (blockLoaded s m false w rn list).writePc (slotWord s m rn list 15#4) := by
  rw [ldm_eq_blockLoaded ha hr, if_pos hpc, if_neg Bool.false_ne_true, getLastD_slotWords hpc]

theorem ldm_returns (hpc : list.getLsbD 15 = true) (ha : wordAccessOk s (s.reg rn) = true)
    (hr : blockReadable s m rn list) :
    ldm s m true w rn list = (blockLoaded s m true w rn list).exceptionReturn (slotWord s m rn list 15#4) := by
  rw [ldm_eq_blockLoaded ha hr, if_pos hpc, if_pos rfl, getLastD_slotWords hpc]

end

/-- `t` is `s` with the words of the list in the registers of bank `b`, the base written back, and nothing else. -/
structure LoadsBlock (s t : State) (m : BlockMode) (w : Bool) (rn : Reg) (list : BitVec 16) (b : Bank) : Prop where
  words : ∀ r, r ≠ 15#4 → list.getLsbD r.toNat = true → t.phys (physReg b r) = slotWord s m rn list r
  base : w = true → t.phys (physReg s.bank rn) = blockFinal m (s.reg rn) list
  pc : t.pc = s.pc
  prefetched : t.prefetched = s.prefetched
  cpsr : t.cpsr = s.cpsr
  frame : Frame s t (listed b list ++ blockBaseMoved s w rn)
  bytes : SameBytes s t

theorem Frame.trans {s t u : State} {ps qs : List PhysReg} (hst : Frame s t ps) (htu : Frame t u qs) :
    Frame s u (qs ++ ps) := by
  obtain ⟨hregs, hspsrs, ⟨hlines, hupcoming, hplatform⟩, hdraws⟩ := hst
  obtain ⟨hregs', hspsrs', ⟨hlines', hupcoming', hplatform'⟩, hdraws'⟩ := htu
  refine ⟨fun p hp => ?_, fun b => (hspsrs' b).trans (hspsrs b),
    ⟨hlines'.trans hlines, hupcoming'.trans hupcoming, hplatform'.trans hplatform⟩, hdraws'.trans hdraws⟩
  rw [List.mem_append, not_or] at hp
  exact (hregs' p hp.1).trans (hregs p hp.2)

theorem mem_listed {b : Bank} {list : BitVec 16} {r : Reg} (hr : r ∈ regsOf list) (h15 : r ≠ 15#4) :
    physReg b r ∈ listed b list :=
  List.mem_map_of_mem (List.mem_filter.mpr ⟨hr, (Bool.not_eq_true' _).mpr (isPc_eq_false.mpr h15)⟩)

theorem frame_writeLoaded (s : State) (user : Bool) (list : BitVec 16) (vs : List Word) :
    Frame s (writeLoaded s user (regsOf list) vs) (listed (loadBank s user) list) := by
  obtain ⟨_, _, _, hlines, hupcoming, hplatform, hdraws, hspsrs⟩ := writeLoaded_frame s user (regsOf list) vs
  refine ⟨fun p hp => ?_, hspsrs, ⟨hlines, hupcoming, hplatform⟩, hdraws⟩
  exact writeLoaded_phys_other s user _ vs p fun r hr h15 e => hp (e ▸ mem_listed hr h15)

theorem frame_blockBase (s : State) (w : Bool) (rn : Reg) (v : Word) :
    Frame s (writeBack s true w rn v) (blockBaseMoved s w rn) := by
  cases w with
  | false => exact frame_refl s []
  | true => exact frame_setReg s rn v s.pc

theorem loadBank_writeBack (s : State) (w : Bool) (rn : Reg) (v : Word) (user : Bool) :
    loadBank (writeBack s true w rn v) user = loadBank s user := by
  cases w <;> rfl

section
variable {s : State} {m : BlockMode} {sb w : Bool} {rn : Reg} {list : BitVec 16}

/-- The base keeps what is written back: no register loaded is the base (R174), and the User-bank form writes no base
back (R177). -/
theorem blockLoaded_base (hblock : blockOk true rn list = true) (huser : userBankOk true sb true list = true) :
    (blockLoaded s m sb true rn list).phys (physReg s.bank rn) = blockFinal m (s.reg rn) list := by
  obtain ⟨h15, hlist⟩ := base_of_blockOk hblock
  have hcurrent : usesUserBank true sb list = false := by simpa [userBankOk] using huser
  rw [blockLoaded, hcurrent, writeLoaded_phys_other]
  · exact State.phys_setPhys_self ..
  · intro r hr hr15 e
    obtain rfl := physReg_inj _ hr15 h15 e
    rw [(mem_regsOf list r).mp hr] at hlist
    cases hlist

theorem loadsBlock_blockLoaded (hblock : blockOk w rn list = true) (huser : userBankOk true sb w list = true) :
    LoadsBlock s (blockLoaded s m sb w rn list) m w rn list (loadBank s (usesUserBank true sb list)) := by
  have hbank := loadBank_writeBack s w rn (blockFinal m (s.reg rn) list) (usesUserBank true sb list)
  obtain ⟨hbasePc, hbasePre⟩ := writeBack_pc s true w rn (blockFinal m (s.reg rn) list)
  obtain ⟨hpc, hpre⟩ := writeLoaded_pc (writeBack s true w rn (blockFinal m (s.reg rn) list))
    (usesUserBank true sb list) (regsOf list) ((regsOf list).map (slotWord s m rn list))
  obtain ⟨_, hcpsr, hmem, _⟩ := writeLoaded_frame (writeBack s true w rn (blockFinal m (s.reg rn) list))
    (usesUserBank true sb list) (regsOf list) ((regsOf list).map (slotWord s m rn list))
  refine ⟨fun r h15 hr => ?_, fun hw => ?_, hpc.trans hbasePc, hpre.trans hbasePre, hcpsr.trans ?_, ?_, fun b => ?_⟩
  · have hget := regsOf_getElem?_rank list r hr
    rw [← hbank]
    exact writeLoaded_phys_listed _ _ _ _ (nodup_regsOf list) _ r _ hget (by rw [List.getElem?_map, hget]; rfl) h15
  · subst hw
    exact blockLoaded_base hblock huser
  · cases w <;> rfl
  · rw [← hbank]
    exact (frame_blockBase s w rn _).trans (frame_writeLoaded _ _ _ _)
  · rw [blockLoaded, hmem]
    cases w <;> rfl

end

/-! ## The endings (R175, R176) -/

section
variable {s t : State} {m : BlockMode} {w : Bool} {rn : Reg} {list : BitVec 16} {b : Bank}

theorem ne_pc_of_listed {r : Reg} (hpc : list.getLsbD 15 = false) (hr : list.getLsbD r.toNat = true) : r ≠ 15#4 := by
  rintro rfl
  exact Bool.false_ne_true (hpc.symm.trans hr)

/-- The loads of a list without R15, the pc advanced, nothing else. -/
theorem LoadsBlock.advance (h : LoadsBlock s t m w rn list b) (hpc : list.getLsbD 15 = false)
    (hfall : fallsThrough s = true) :
    ∃ u, t.advance = .ok u ∧
      (∀ r, list.getLsbD r.toNat = true → u.phys (physReg b r) = slotWord s m rn list r) ∧
      (w = true → u.phys (physReg s.bank rn) = blockFinal m (s.reg rn) list) ∧
      Plain s u (listed b list ++ blockBaseMoved s w rn) := by
  have hne : t.pc ≠ 0xFFFFFFFC#32 := h.pc ▸ (fallsThrough_iff s).mp hfall
  exact ⟨_, State.advance_of_ne hne, fun r hr => h.words r (ne_pc_of_listed hpc hr) hr, h.base,
    ⟨congrArg (· + 4) h.pc, h.prefetched⟩, h.cpsr, h.frame, h.bytes⟩

/-- The loads end in the mode they started in, whose SPSR is as it was. -/
theorem LoadsBlock.spsrOf_bank (h : LoadsBlock s t m w rn list b) : t.spsrOf t.bank = s.spsrOf s.bank := by
  obtain ⟨_, hspsrs, _, _⟩ := h.frame
  rw [State.bank, h.cpsr]
  exact hspsrs s.bank

end

/-- Settles O43: without R15 and `^` the loads are those of the current bank, and the pc advances. -/
theorem ldmLoadsRegisters : Obligations.LdmLoadsRegisters := by
  intro m c w rn list s hpc h hfall ha hr
  obtain ⟨hblock, huser⟩ := blockOk_of_runs_ldm h
  obtain ⟨t, ht, hdone⟩ := (loadsBlock_blockLoaded (s := s) (m := m) hblock huser).advance hpc hfall
  exact ⟨t, by rw [exec_ldm (.inl rfl) h, ldm_advances hpc ha hr, ht, Attempt.outcome_ok], hdone⟩

/-- Settles O44: after the loads the word of R15 is written to the pc. -/
theorem ldmJumps : Obligations.LdmJumps := by
  intro m c w rn list s hpc h ha hr
  obtain ⟨hblock, huser⟩ := blockOk_of_runs_ldm h
  have hload := loadsBlock_blockLoaded (s := s) (m := m) hblock huser
  rw [exec_ldm (.inl rfl) h, ldm_jumps hpc ha hr]
  refine ⟨fun hal => ?_, fun hal => ?_⟩
  · rw [State.writePc_of_misaligned hal, Attempt.outcome_refused]
  · rw [State.writePc_of_aligned hal]
    exact ⟨_, rfl, hload.words, hload.base, ⟨rfl, rfl⟩, hload.cpsr, hload.frame, hload.bytes⟩

/-- Settles O45: after the loads it is an exception return from the mode it started in, with the refusals of one. -/
theorem ldmReturns : Obligations.LdmReturns := by
  intro m c w rn list s hpc h
  obtain ⟨hblock, huser⟩ := blockOk_of_runs_ldm h
  refine ⟨fun hnone => ?_, fun saved hsaved ha hr => ?_⟩
  · rw [exec_ldm_checked h, checkedBlock_noSpsr (hasSpsr_of_spsrOf_none hnone) hpc hblock, Attempt.outcome_refused]
  have hload := loadsBlock_blockLoaded (s := s) (m := m) hblock huser
  rw [usesUserBank_ldm_pc hpc] at hload
  have hspsr := hload.spsrOf_bank.trans hsaved
  rw [exec_ldm (.inr (hasSpsr_of_spsrOf_some hsaved)) h, ldm_returns hpc ha hr]
  refine ⟨fun hal => by rw [State.exceptionReturn_of_misaligned hspsr hal, Attempt.outcome_refused],
    fun hal hthumb => ?_, fun hal harm hmode => ?_, fun hal harm hmode => ?_⟩ <;>
    rw [State.exceptionReturn_of_aligned hspsr hal]
  · rw [State.loadCpsr_of_thumb hthumb, Attempt.outcome_refused]
  · rw [State.loadCpsr_of_noMode harm hmode, Attempt.outcome_refused]
  · rw [State.loadCpsr_eq_ok.mpr ⟨harm, Option.isSome_iff_ne_none.mpr hmode, rfl⟩]
    exact ⟨_, rfl, hload.words, hload.base, ⟨rfl, rfl⟩, rfl, hload.frame, hload.bytes⟩

/-- Settles O46: the loads are those of the User bank, and no base moves. -/
theorem ldmUserBank : Obligations.LdmUserBank := by
  intro m c rn list s hpc h
  obtain ⟨hblock, huser⟩ := blockOk_of_runs_ldm h
  have hform : usesUserBank true true list = true := usesUserBank_ldm hpc
  refine ⟨fun hs => ?_, fun hs hfall ha hr => ?_⟩
  · rw [exec_ldm_checked h, checkedBlock_userBank hs hform hblock, Attempt.outcome_refused]
  · obtain ⟨t, ht, hwords, _, hplain⟩ := (loadsBlock_blockLoaded (s := s) (m := m) hblock huser).advance hpc hfall
    rw [hform] at hwords hplain
    refine ⟨t, ?_, hwords, ?_⟩
    · rw [exec_ldm (.inr hs) h, ldm_advances hpc ha hr, ht, Attempt.outcome_ok]
    · rwa [blockBaseMoved, if_neg Bool.false_ne_true, List.append_nil] at hplain

end Sys2Proof.Machine
end

section
/-! PROOFS. Block stores (44_block_data_transfer.md): the words of the list stored in their slots, as many as come before
an abort, and the ending of STM; and the Data Abort of LDM and STM (60_exceptions.md R247). -/

namespace Sys2Proof.Machine

/-! ## What runs (R173, R177) -/

section
variable {m : BlockMode} {c : Cond} {sb w : Bool} {rn : Reg} {list : BitVec 16} {s : State}

theorem exec_stm_checked (h : runs (m.stm c sb w rn list) s = true) :
    exec (m.stm c sb w rn list) s = (checkedBlock s false sb w rn list (stm s m sb w rn list)).outcome := by
  cases m <;> exact exec_of_runs h rfl

theorem blockOk_of_runs_stm (h : runs (m.stm c sb w rn list) s = true) : blockOk w rn list = true := by
  obtain ⟨_, hwf⟩ := (runs_iff _ s).mp h
  cases m <;> exact ((Bool.and_eq_true _ _).mp hwf).1

/-- The User-bank form of STM is `^`, with R15 as without (R173). -/
theorem usesUserBank_stm (sb : Bool) (list : BitVec 16) : usesUserBank false sb list = sb := Bool.and_true sb

theorem blockValue_eq_ite (s : State) (user : Bool) (r : Reg) :
    blockValue s user r = if r = 15#4 then s.pc + 12 else s.phys (physReg (if user then .usr else s.bank) r) := by
  cases user <;> simp only [blockValue, State.reg12, State.regAhead, State.userReg12, isPc, beq_iff_eq] <;> rfl

end

/-! ## The words stored (R172, R173) -/

theorem rank_lt_rank_iff {list : BitVec 16} {q r : Reg} (hr : list.getLsbD r.toNat = true)
    (hq : list.getLsbD q.toNat = true) : rank list r < rank list q ↔ r.toNat < q.toNat := by
  refine ⟨fun h => Nat.lt_of_not_le fun hle => absurd (rank_mono list hle) (Nat.not_le.mpr h), fun h => ?_⟩
  refine lt_of_le_of_ne (rank_mono list h.le) fun e => ?_
  have hsame := regsOf_getElem?_rank list r hr
  rw [e, regsOf_getElem?_rank list q hq] at hsame
  exact absurd h (Option.some.inj hsame ▸ Nat.lt_irrefl _)

/-- What a block store stores, lowest register first. -/
def blockValues (s : State) (sb : Bool) (list : BitVec 16) : List Word := (regsOf list).map (blockValue s sb)

theorem length_blockValues (s : State) (sb : Bool) (list : BitVec 16) : (blockValues s sb list).length = count list := by
  rw [blockValues, List.length_map, length_regsOf]

theorem blockValues_getElem?_rank (s : State) (sb : Bool) {list : BitVec 16} {r : Reg}
    (hr : list.getLsbD r.toNat = true) : (blockValues s sb list)[rank list r]? = some (blockValue s sb r) := by
  rw [blockValues, List.getElem?_map, regsOf_getElem?_rank list r hr]
  rfl

section
variable {s : State} {m : BlockMode} {sb w : Bool} {rn : Reg} {list : BitVec 16}

/-- The first `n` words of a block store change memory alone: each is in its slot, and every byte after them is as
before. -/
theorem storeWords_slots {n : Nat} (hm : s.mem.wf = true) (hn : n ≤ count list)
    (h : ∀ r : Reg, list.getLsbD r.toNat = true → rank list r < n → writable s (slot s m rn list r) 4 = true) :
    ∃ mem, s.storeWords (blockStart m (alignDown (s.reg rn)) list) ((blockValues s sb list).take n) =
        .ok (s.setMem mem) ∧
      (∀ r : Reg, list.getLsbD r.toNat = true → rank list r < n →
        mem.word s.platform.bigEndian (slot s m rn list r) = blockValue s sb r) ∧
      OnlyBytes s (s.setMem mem) (blockStart m (alignDown (s.reg rn)) list) (4 * n) := by
  have hlen : ((blockValues s sb list).take n).length = n :=
    List.length_take_of_le (hn.trans_eq (length_blockValues s sb list).symm)
  obtain ⟨mem, hstore, _, hword, hout⟩ := State.storeWords_ok (s := s)
    (a := blockStart m (alignDown (s.reg rn)) list) (vs := (blockValues s sb list).take n) hm
    (hlen.trans_le (hn.trans (count_le list))) fun k hk => by
      rw [hlen] at hk
      obtain ⟨r, hr, rfl⟩ := exists_rank list k (hk.trans_le hn)
      exact h r hr hk
  rw [hlen] at hout
  refine ⟨mem, hstore, fun r hr hrank => (hword _ (hrank.trans_eq hlen.symm)).trans ?_, hout⟩
  obtain ⟨_, hget⟩ := List.getElem?_eq_some_iff.mp (blockValues_getElem?_rank s sb hr)
  rw [List.getElem_take, hget]

theorem stm_eq_storeWords (ha : wordAccessOk s (s.reg rn) = true) :
    stm s m sb w rn list =
      (s.storeWords (blockStart m (alignDown (s.reg rn)) list) (blockValues s sb list)).andThen fun t =>
        (writeBack t true w rn (blockFinal m (s.reg rn) list)).advance := by
  rw [stm, State.wordAddress_of_ok ha, Attempt.andThen_ok, usesUserBank_stm]
  rfl

end

/-! ## The ending (R174) -/

/-- The base of a block transfer is moved by its bytes, up for IA and IB (R172). -/
theorem blockFinal_eq_transferTarget (s : State) (m : BlockMode) (rn : Reg) (list : BitVec 16) :
    ∃ u, blockFinal m (s.reg rn) list = transferTarget s u rn (blockBytes list) := by
  cases m with
  | ia | ib => exact ⟨true, rfl⟩
  | da | db => exact ⟨false, rfl⟩

/-- An STM whose words can all be stored, in its form with `^` and without. -/
theorem stm_of_writable {s : State} {m : BlockMode} (sb : Bool) {w : Bool} {rn : Reg} {list : BitVec 16}
    (hm : s.mem.wf = true) (hfall : fallsThrough s = true) (ha : wordAccessOk s (s.reg rn) = true)
    (hw : blockWritable s m rn list) :
    ∃ t, stm s m sb w rn list = .ok t ∧
      (∀ r, list.getLsbD r.toNat = true → t.mem.word s.platform.bigEndian (slot s m rn list r) = blockValue s sb r) ∧
      OnlyBytes s t (blockStart m (alignDown (s.reg rn)) list) (4 * count list) ∧
      (w = true → t.phys (physReg s.bank rn) = blockFinal m (s.reg rn) list) ∧
      Advances s t ∧ t.cpsr = s.cpsr ∧ Frame s t (blockBaseMoved s w rn) := by
  obtain ⟨mem, hstore, hword, hout⟩ := storeWords_slots (sb := sb) hm (le_refl _) fun r hr _ => hw r hr
  rw [List.take_of_length_le (length_blockValues s sb list).le] at hstore
  obtain ⟨u, hfinal⟩ := blockFinal_eq_transferTarget s m rn list
  obtain ⟨t, ht, rfl, hbase, hdone⟩ :=
    State.storeEnd (s := s) (p := true) (w := w) u (rn := rn) (blockBytes list) mem hfall
  rw [← hfinal] at ht
  refine ⟨t, ?_, fun r hr => hword r hr (rank_lt_count list r hr), hout, fun h => ?_, hdone⟩
  · rw [stm_eq_storeWords ha, hstore, Attempt.andThen_ok, ht]
  · rw [hfinal]
    exact hbase h

/-- Settles O47: without `^` the values are those of the current bank. -/
theorem stmStoresRegisters : Obligations.StmStoresRegisters := by
  intro m c w rn list s hm h hfall ha hw
  obtain ⟨t, ht, hword, hdone⟩ := stm_of_writable false (w := w) hm hfall ha hw
  refine ⟨t, ?_, fun r hr => (hword r hr).trans (blockValue_eq_ite s false r), hdone⟩
  rw [exec_stm (.inl rfl) h, ht, Attempt.outcome_ok]

/-- Settles O48: with `^` the values are those of the User bank, and no base moves. -/
theorem stmUserBank : Obligations.StmUserBank := by
  intro m c rn list s h
  refine ⟨fun hs => ?_, fun hs hm hfall ha hw => ?_⟩
  · rw [exec_stm_checked h, checkedBlock_userBank hs (usesUserBank_stm true list) (blockOk_of_runs_stm h),
      Attempt.outcome_refused]
  · obtain ⟨t, ht, hword, hout, _, hdone⟩ := stm_of_writable true (w := false) hm hfall ha hw
    refine ⟨t, ?_, fun r hr => (hword r hr).trans (blockValue_eq_ite s true r), hout, hdone⟩
    rw [exec_stm (.inr hs) h, ht, Attempt.outcome_ok]

/-! ## An aborted word (R173, R247, D25) -/

theorem Attempt.StartsWith.outcome_abort {α : Type} {x : Attempt α} {y : Attempt State} {t : State}
    (h : x.StartsWith y) (hx : x = .abort t) : y.outcome = .next (t.enter .dataAbort) := by
  obtain ⟨k, rfl⟩ := h
  rw [hx, Attempt.andThen_abort, Attempt.outcome_abort]

/-- An STM whose word for `q` is aborted has stored the words below it, and does nothing else. -/
theorem stm_aborts {s : State} {m : BlockMode} (sb : Bool) {w : Bool} {rn : Reg} {list : BitVec 16} {q : Reg}
    (hm : s.mem.wf = true) (ha : wordAccessOk s (s.reg rn) = true) (hq : list.getLsbD q.toNat = true)
    (habort : s.platform.abortsAt .write (slot s m rn list q) 4 = true)
    (h : ∀ r : Reg, r.toNat < q.toNat → list.getLsbD r.toNat = true → writable s (slot s m rn list r) 4 = true) :
    ∃ mem, stm s m sb w rn list = .abort (s.setMem mem) ∧
      (∀ r : Reg, r.toNat < q.toNat → list.getLsbD r.toNat = true →
        mem.word s.platform.bigEndian (slot s m rn list r) = blockValue s sb r) ∧
      OnlyBytes s (s.setMem mem) (blockStart m (alignDown (s.reg rn)) list) (4 * rank list q) := by
  have hrank := rank_lt_count list q hq
  obtain ⟨mem, hstore, hword, hout⟩ := storeWords_slots (sb := sb) hm hrank.le
    fun r hr hlt => h r ((rank_lt_rank_iff hr hq).mp hlt) hr
  refine ⟨mem, ?_, fun r hlt hr => hword r hr ((rank_lt_rank_iff hr hq).mpr hlt), hout⟩
  have hlen : rank list q < (blockValues s sb list).length := hrank.trans_eq (length_blockValues s sb list).symm
  have hnext (v : Word) : (s.setMem mem).storeAligned (slot s m rn list q) v = .abort (s.setMem mem) :=
    State.storeAligned_eq_abort.mpr ⟨habort, rfl⟩
  rw [stm_eq_storeWords ha, ← List.take_append_drop (rank list q) (blockValues s sb list), State.storeWords_append,
    hstore, Attempt.andThen_ok, List.length_take_of_le hlen.le, List.drop_eq_getElem_cons hlen, State.storeWords,
    ← slot, hnext]
  rfl

/-- Settles O49: LDM has written nothing where an access aborts, and STM the words below alone. -/
theorem blockAborts : Obligations.BlockAborts := by
  intro m c sb w rn list s q hmode ha hq
  refine ⟨fun h habort hlower => ?_, fun hm h habort hlower => ?_⟩
  · refine ⟨s.enter .dataAbort, ?_, s.enter_entered .dataAbort⟩
    rw [exec_ldm hmode h]
    exact (ldm_startsWith_slot ha hq hlower).outcome_abort (State.access_eq_abort.mpr ⟨habort, rfl⟩)
  · obtain ⟨mem, hstm, hword, hout⟩ := stm_aborts sb (w := w) hm ha hq habort hlower
    obtain ⟨hentered, hbytes⟩ := (s.setMem mem).enter_entered .dataAbort
    refine ⟨(s.setMem mem).enter .dataAbort, ?_, hentered, fun r hlt hr => ?_, fun b hb => (hbytes b).trans (hout b hb)⟩
    · rw [exec_stm hmode h, hstm, Attempt.outcome_abort]
    · have h15 : r ≠ 15#4 := by
        rintro rfl
        exact absurd hlt (Nat.not_lt.mpr (Nat.le_of_lt_succ q.isLt))
      rw [State.enter_mem, State.setMem_mem, hword r hlt hr, blockValue_eq_ite, if_neg h15]

end Sys2Proof.Machine
end

section
/-! PROOFS. Multiply (45_multiply.md): the operand combinations let through, what each multiply comes to when it runs,
and the exact value of its result, under the endings of `Laws/Multiply`. -/

namespace Sys2Proof.Machine

/-! ## The operand combinations let through (R199) -/

theorem mulOk_iff {rd rs rm : Reg} :
    mulOk rd rs rm = true ↔ rd ≠ 15#4 ∧ rs ≠ 15#4 ∧ rm ≠ 15#4 ∧ rd ≠ rm := by
  simp [mulOk, isPc, and_assoc]

theorem mlaOk_iff {rd rn rs rm : Reg} : mlaOk rd rn rs rm = true ↔ mulOk rd rs rm = true ∧ rn ≠ 15#4 := by
  simp [mlaOk, isPc]

theorem longOk_iff {hi lo rs rm : Reg} :
    longOk hi lo rs rm = true ↔
      hi ≠ 15#4 ∧ lo ≠ 15#4 ∧ rs ≠ 15#4 ∧ rm ≠ 15#4 ∧ hi ≠ lo ∧ hi ≠ rm ∧ lo ≠ rm := by
  simp [longOk, isPc, and_assoc]

/-! ## What each multiply comes to (R192, R193, R195 to R198) -/

/-- An instruction whose one check is its operand combination comes to its body. -/
theorem exec_of_checked {i : Instr} {s : State} {r : Refusal} {body : Attempt State} (h : runs i s = true)
    (he : exec i s = conditional i.cond s (require i.wellFormed r body)) : exec i s = body.outcome := by
  obtain ⟨_, hwf⟩ := (runs_iff i s).mp h
  rw [exec_of_runs h he, require_of_true hwf]

section
variable {c : Cond} {sb : Bool} {rd rn hi lo rs rm : Reg} {s : State}

theorem exec_mul (h : runs (.mul c sb rd rs rm) s = true) :
    exec (.mul c sb rd rs rm) s = (finishMul s sb rd (s.reg rm * s.reg rs)).outcome :=
  exec_of_checked h rfl

theorem exec_mla (h : runs (.mla c sb rd rn rs rm) s = true) :
    exec (.mla c sb rd rn rs rm) s = (finishMul s sb rd (s.reg rm * s.reg rs + s.reg rn)).outcome :=
  exec_of_checked h rfl

theorem exec_umull (h : runs (.umull c sb hi lo rs rm) s = true) :
    exec (.umull c sb hi lo rs rm) s =
      (finishLong s sb hi lo (BitVec.ofNat 64 (unsignedProduct s rs rm))).outcome :=
  exec_of_checked h rfl

theorem exec_umlal (h : runs (.umlal c sb hi lo rs rm) s = true) :
    exec (.umlal c sb hi lo rs rm) s =
      (finishLong s sb hi lo (BitVec.ofNat 64 (unsignedProduct s rs rm + accumulator s hi lo))).outcome :=
  exec_of_checked h rfl

theorem exec_smull (h : runs (.smull c sb hi lo rs rm) s = true) :
    exec (.smull c sb hi lo rs rm) s =
      (finishLong s sb hi lo (BitVec.ofInt 64 (signedProduct s rs rm))).outcome :=
  exec_of_checked h rfl

theorem exec_smlal (h : runs (.smlal c sb hi lo rs rm) s = true) :
    exec (.smlal c sb hi lo rs rm) s =
      (finishLong s sb hi lo (BitVec.ofInt 64 (signedProduct s rs rm + (accumulator s hi lo : Int)))).outcome :=
  exec_of_checked h rfl

end

/-! ## The endings, by the value of the result

Either ending is a step whose frame speaks of what the destination then holds. -/

section
variable {i : Instr} {sb : Bool} {s : State}

theorem exec_of_finishMul {rd : Reg} {result : Word} (hpc : fallsThrough s = true)
    (he : exec i s = (finishMul s sb rd result).outcome) :
    ∃ t, exec i s = .next t ∧ (t.phys (physReg s.bank rd)).toNat = result.toNat ∧
      MultiplyFrame s t sb (t.phys (physReg s.bank rd)).toNat 2147483648 [physReg s.bank rd] ∧
      psrV t.cpsr = psrV s.cpsr := by
  obtain ⟨t, ht, hrd, hframe, hv⟩ := finishMul_result sb rd result hpc
  exact ⟨t, by rw [he, ht, Attempt.outcome_ok], congrArg _ hrd, hrd ▸ hframe, hv⟩

theorem exec_of_finishLong {hi lo rs rm : Reg} {result : BitVec 64} (hok : longOk hi lo rs rm = true)
    (hpc : fallsThrough s = true) (he : exec i s = (finishLong s sb hi lo result).outcome) :
    ∃ t, exec i s = .next t ∧ pairOf t s.bank hi lo = result.toNat ∧
      MultiplyFrame s t sb (pairOf t s.bank hi lo) 9223372036854775808 [physReg s.bank hi, physReg s.bank lo] := by
  obtain ⟨hHi, hLo, _, _, hne, _⟩ := longOk_iff.mp hok
  obtain ⟨t, ht, hpair, hframe⟩ := finishLong_result sb result hne hHi hLo hpc
  exact ⟨t, by rw [he, ht, Attempt.outcome_ok], hpair, hpair ▸ hframe⟩

end

/-! ## The operands, read from the bank -/

section
variable {s : State} {hi lo rs rm : Reg} (hok : longOk hi lo rs rm = true)
include hok

theorem unsignedProduct_eq_phys :
    unsignedProduct s rs rm = (s.phys (physReg s.bank rm)).toNat * (s.phys (physReg s.bank rs)).toNat := by
  obtain ⟨_, _, hrs, hrm, _⟩ := longOk_iff.mp hok
  rw [unsignedProduct, s.reg_of_ne hrs, s.reg_of_ne hrm]

theorem signedProduct_eq_phys :
    signedProduct s rs rm = (s.phys (physReg s.bank rm)).toInt * (s.phys (physReg s.bank rs)).toInt := by
  obtain ⟨_, _, hrs, hrm, _⟩ := longOk_iff.mp hok
  rw [signedProduct, s.reg_of_ne hrs, s.reg_of_ne hrm]

theorem accumulator_eq_pairOf : accumulator s hi lo = pairOf s s.bank hi lo := by
  obtain ⟨hHi, hLo, _⟩ := longOk_iff.mp hok
  rw [accumulator, pairOf, s.reg_of_ne hHi, s.reg_of_ne hLo]

end

/-- The product of two words fits in 64 bits, so UMULL loses nothing. -/
theorem unsignedProduct_lt (s : State) (rs rm : Reg) : unsignedProduct s rs rm < 2 ^ 64 :=
  calc (s.reg rm).toNat * (s.reg rs).toNat
    _ < 2 ^ 32 * 2 ^ 32 := Nat.mul_lt_mul'' (s.reg rm).isLt (s.reg rs).isLt
    _ = 2 ^ 64 := by decide

/-- The value of a result kept in two's complement is the exact one modulo 2^64. -/
theorem toNat_ofInt_64 (x : Int) : ((BitVec.ofInt 64 x).toNat : Int) = x % 18446744073709551616 := by
  rw [BitVec.toNat_ofInt]
  exact Int.toNat_of_nonneg (Int.emod_nonneg x (by decide))

/-! ## The results -/

/-- Settles O50: the ending writes the product, or the product and the addend, modulo 2^32. -/
theorem multiplyResult : Obligations.MultiplyResult := by
  intro c sb rd rn rs rm s hpc
  refine ⟨fun h => ?_, fun h => ?_⟩
  · obtain ⟨_, hrs, hrm, _⟩ := mulOk_iff.mp ((runs_iff _ s).mp h).2
    obtain ⟨t, ht, hvalue, hdone⟩ := exec_of_finishMul hpc (exec_mul h)
    refine ⟨t, ht, ?_, hdone⟩
    rw [hvalue, s.reg_of_ne hrs, s.reg_of_ne hrm, BitVec.toNat_mul]
  · obtain ⟨hmul, hrn⟩ := mlaOk_iff.mp ((runs_iff _ s).mp h).2
    obtain ⟨_, hrs, hrm, _⟩ := mulOk_iff.mp hmul
    obtain ⟨t, ht, hvalue, hdone⟩ := exec_of_finishMul hpc (exec_mla h)
    refine ⟨t, ht, ?_, hdone⟩
    rw [hvalue, s.reg_of_ne hrs, s.reg_of_ne hrm, s.reg_of_ne hrn, BitVec.toNat_add, BitVec.toNat_mul,
      Nat.mod_add_mod]

/-- Settles O51: the product of two words is below 2^64, and the sum with the accumulator is taken modulo 2^64. -/
theorem unsignedLongMultiply : Obligations.UnsignedLongMultiply := by
  intro c sb hi lo rs rm s hpc
  refine ⟨fun h => ?_, fun h => ?_⟩
  · have hok : longOk hi lo rs rm = true := ((runs_iff _ s).mp h).2
    obtain ⟨t, ht, hpair, hframe⟩ := exec_of_finishLong hok hpc (exec_umull h)
    refine ⟨t, ht, ?_, hframe⟩
    rw [hpair, BitVec.toNat_ofNat, Nat.mod_eq_of_lt (unsignedProduct_lt s rs rm), unsignedProduct_eq_phys hok]
  · have hok : longOk hi lo rs rm = true := ((runs_iff _ s).mp h).2
    obtain ⟨t, ht, hpair, hframe⟩ := exec_of_finishLong hok hpc (exec_umlal h)
    refine ⟨t, ht, ?_, hframe⟩
    rw [hpair, BitVec.toNat_ofNat, unsignedProduct_eq_phys hok, accumulator_eq_pairOf hok]

/-- Settles O52: product and sum are exact integers, taken modulo 2^64 by the ending. -/
theorem signedLongMultiply : Obligations.SignedLongMultiply := by
  intro c sb hi lo rs rm s hpc
  refine ⟨fun h => ?_, fun h => ?_⟩
  · have hok : longOk hi lo rs rm = true := ((runs_iff _ s).mp h).2
    obtain ⟨t, ht, hpair, hframe⟩ := exec_of_finishLong hok hpc (exec_smull h)
    refine ⟨t, ht, ?_, hframe⟩
    rw [hpair, toNat_ofInt_64, signedProduct_eq_phys hok]
  · have hok : longOk hi lo rs rm = true := ((runs_iff _ s).mp h).2
    obtain ⟨t, ht, hpair, hframe⟩ := exec_of_finishLong hok hpc (exec_smlal h)
    refine ⟨t, ht, ?_, hframe⟩
    rw [hpair, toNat_ofInt_64, signedProduct_eq_phys hok, accumulator_eq_pairOf hok]

end Sys2Proof.Machine
end

section
/-! PROOFS. Single data swap (46_swap.md): SWP and SWPB as memory written, then Rd, under the ending of `Laws/Effects`, and
an aborted access as the exception entry from the state as it was. -/

namespace Sys2Proof.Machine

/-! ## The swap made (R201, R202) -/

theorem swapOk_iff {rn rd rm : Reg} :
    swapOk rn rd rm = true ↔ rn ≠ 15#4 ∧ rd ≠ 15#4 ∧ rm ≠ 15#4 ∧ rn ≠ rd ∧ rn ≠ rm := by
  simp [swapOk, isPc, and_assoc]

/-- The ending of a swap: a memory put in place, Rd written, the pc advanced, nothing else. -/
theorem exec_of_setMem_setReg {i : Instr} {s : State} {m : Memory} {rd : Reg} {v : Word} (hpc : fallsThrough s = true)
    (he : exec i s = ((s.setMem m).setReg rd v).advance.outcome) :
    ∃ t, exec i s = .next t ∧ t.phys (physReg s.bank rd) = v ∧ (∀ b, t.mem.read b = m.read b) ∧ Advances s t ∧
      t.cpsr = s.cpsr ∧ Frame s t [physReg s.bank rd] := by
  obtain ⟨t, ht, hv, hadv, hcpsr, hframe, hbytes⟩ := State.setReg_advance (s := s.setMem m) rd v hpc
  exact ⟨t, by rw [he, ht, Attempt.outcome_ok], hv, hbytes, hadv, hcpsr, hframe⟩

section
variable {c : Cond} {rn rd rm : Reg} {s : State}

/-- The value stored is read from the bank before Rd is written, so Rd may be Rm. -/
theorem exec_swp_of_accessible (h : runs (.swp c rn rd rm) s = true)
    (hal : wordAccessOk s (s.phys (physReg s.bank rn)) = true)
    (hr : readable s (alignDown (s.phys (physReg s.bank rn))) 4 = true)
    (hw : writable s (alignDown (s.phys (physReg s.bank rn))) 4 = true) :
    exec (.swp c rn rd rm) s =
      ((s.setMem (s.mem.setWord s.platform.bigEndian (alignDown (s.phys (physReg s.bank rn)))
        (s.phys (physReg s.bank rm)))).setReg rd (loadedWord s (s.phys (physReg s.bank rn)))).advance.outcome := by
  obtain ⟨hrn, _, hrm, _⟩ := swapOk_iff.mp ((runs_iff _ s).mp h).2
  rw [exec_swp h, swapWord, s.reg_of_ne hrn, s.reg_of_ne hrm, State.loadWord_ok hal hr, Attempt.andThen_ok,
    State.storeWord_eq_ok.mpr ⟨hal, hw, rfl⟩, Attempt.andThen_ok]

theorem exec_swpb_of_accessible (h : runs (.swpb c rn rd rm) s = true)
    (hr : readable s (s.phys (physReg s.bank rn)) 1 = true)
    (hw : writable s (s.phys (physReg s.bank rn)) 1 = true) :
    exec (.swpb c rn rd rm) s =
      ((s.setMem (s.mem.write (s.phys (physReg s.bank rn)) (field (s.phys (physReg s.bank rm)) 0 8))).setReg rd
        ((s.mem.read (s.phys (physReg s.bank rn))).zeroExtend 32)).advance.outcome := by
  obtain ⟨hrn, _, hrm, _⟩ := swapOk_iff.mp ((runs_iff _ s).mp h).2
  rw [exec_swpb h, swapByte, s.reg_of_ne hrn, s.reg_of_ne hrm, State.loadByte_ok hr, Attempt.andThen_ok,
    State.storeByte_eq_ok.mpr ⟨hw, rfl⟩, Attempt.andThen_ok]

end

/-- Settles O53: what is stored reads back, and writing Rd leaves memory alone. -/
theorem swapExchanges : Obligations.SwapExchanges := by
  intro c rn rd rm s hm hpc
  refine ⟨fun h hal hr hw => ?_, fun h hr hw => ?_⟩
  · obtain ⟨t, ht, hrd, hbytes, hdone⟩ := exec_of_setMem_setReg hpc (exec_swp_of_accessible h hal hr hw)
    refine ⟨t, ht, hrd, ?_, fun b hb => ?_, hdone⟩
    · exact (Memory.word_congr fun b _ => hbytes b).trans (Memory.word_setWord hm _ _ _)
    · exact (hbytes b).trans (Memory.read_setWord_outside _ _ _ _ _ hb)
  · obtain ⟨t, ht, hrd, hbytes, hdone⟩ := exec_of_setMem_setReg hpc (exec_swpb_of_accessible h hr hw)
    refine ⟨t, ht, ?_, ?_, fun b hb => ?_, hdone⟩
    · rw [hrd, toNat_zeroExtend_byte]
    · exact (hbytes _).trans (Memory.read_write_self hm _ _)
    · have hne : s.phys (physReg s.bank rn) ≠ b := fun e => hb (e ▸ List.mem_cons_self)
      exact (hbytes b).trans (Memory.read_write_ne _ _ hne)

/-! ## A swap aborted (R247, D25) -/

section
variable {f : AccessForm} {c : Cond} {s : State}

/-- An instruction that comes to an access which is aborted enters Data Abort from the state as it was. -/
theorem AccessForm.Begins.exec_abort {kind : AccessKind} (h : f.Begins c s kind) (hal : f.alignedOk s = true)
    (habort : s.platform.abortsAt kind (f.seen s) f.width = true) :
    ∃ t, exec (f.instr c) s = .next t ∧ DataAborted s t := by
  obtain ⟨y, hy, hstart⟩ := h
  have hreach : s.reach kind (f.address s) f.width = .abort s := by
    rw [AccessForm.reach_of_alignedOk hal, State.access_eq_abort.mpr ⟨habort, rfl⟩, Attempt.andThen_abort]
  exact ⟨s.enter .dataAbort, by rw [hy, hstart.outcome_abort hreach], s.enter_entered .dataAbort⟩

/-- The write of an instruction that reads first is come to only where the read goes ahead, so either abort finds the state
as it was. -/
theorem AccessForm.exec_abort_of_readsThenWrites (h : runs (f.instr c) s = true) (hreads : f.reads = true)
    (hwrites : f.writes = true) (hal : f.alignedOk s = true)
    (habort : s.platform.abortsAt .read (f.seen s) f.width = true ∨
      (readable s (f.seen s) f.width = true ∧ s.platform.abortsAt .write (f.seen s) f.width = true)) :
    ∃ t, exec (f.instr c) s = .next t ∧ DataAborted s t := by
  rcases habort with hread | ⟨hreadable, hwrite⟩
  · have hfirst : f.firstKind = .read := if_pos hreads
    exact (hfirst ▸ AccessForm.begins_first h).exec_abort hal hread
  · exact (AccessForm.begins_write h hwrites hal fun _ => hreadable).exec_abort hal hwrite

end

/-- Settles O54: SWP and SWPB each read and then write one address, which for a byte needs no alignment. -/
theorem swapAborts : Obligations.SwapAborts := fun _ rn rd rm _ =>
  ⟨fun h hal => AccessForm.exec_abort_of_readsThenWrites (f := .swp rn rd rm) h rfl rfl hal,
    fun h => AccessForm.exec_abort_of_readsThenWrites (f := .swpb rn rd rm) h rfl rfl rfl⟩

end Sys2Proof.Machine
end

section
/-! PROOFS. The privileged state (10_state.md R23, R36, 60_exceptions.md R261, R263): what an instruction leaves of the
mode, the masks, the SPSRs and the registers of other modes, and the four ways in which a step can change the mode. -/

namespace Sys2Proof.Machine

/-! ## What an instruction that stays in its mode leaves alone -/

/-- `t` has of `s` the mode, the masks, T and the reserved bits, the SPSRs, and every register that neither the mode of `s`
nor User mode names. -/
structure Confined (s t : State) : Prop where
  control : field t.cpsr 0 28 = field s.cpsr 0 28
  spsrs : SameSpsrs s t
  regs : ∀ p, (∀ r : Reg, p ≠ physReg s.bank r) → (∀ r : Reg, p ≠ physReg .usr r) → t.phys p = s.phys p

theorem Confined.psrM_eq {s t : State} (h : Confined s t) : psrM t.cpsr = psrM s.cpsr := (psrM_eq_of_field h.control).1

theorem Confined.bank_eq {s t : State} (h : Confined s t) : t.bank = s.bank := congrArg bankOf h.psrM_eq

theorem Confined.refl (s : State) : Confined s s := ⟨rfl, fun _ => rfl, fun _ _ _ => rfl⟩

theorem Confined.trans {s t u : State} (h : Confined s t) (h' : Confined t u) : Confined s u where
  control := h'.control.trans h.control
  spsrs b := (h'.spsrs b).trans (h.spsrs b)
  regs p hbank husr := (h'.regs p (h.bank_eq ▸ hbank) husr).trans (h.regs p hbank husr)

theorem confined_setPc (s : State) (v : Word) : Confined s (s.setPc v) := ⟨rfl, fun _ => rfl, fun _ _ _ => rfl⟩

theorem confined_jump (s : State) (v : Word) : Confined s (s.jump v) := ⟨rfl, fun _ => rfl, fun _ _ _ => rfl⟩

theorem confined_setMem (s : State) (m : Memory) : Confined s (s.setMem m) := ⟨rfl, fun _ => rfl, fun _ _ _ => rfl⟩

theorem confined_drew (s : State) (n : Nat) : Confined s (s.drew n) := ⟨rfl, fun _ => rfl, fun _ _ _ => rfl⟩

theorem confined_setFlags (s : State) (f : Nzcv) : Confined s (s.setFlags f) :=
  ⟨field_psrWithFlags s.cpsr f, fun _ => rfl, fun _ _ _ => rfl⟩

theorem confined_setReg (s : State) (r : Reg) (v : Word) : Confined s (s.setReg r v) :=
  ⟨rfl, fun _ => rfl, fun p hbank _ => s.phys_setPhys_ne _ p v (hbank r).symm⟩

theorem confined_setUserReg (s : State) (r : Reg) (v : Word) : Confined s (s.setUserReg r v) :=
  ⟨rfl, fun _ => rfl, fun p _ husr => s.phys_setPhys_ne _ p v (husr r).symm⟩

theorem confined_writeBack (s : State) (p w : Bool) (rn : Reg) (target : Word) :
    Confined s (writeBack s p w rn target) := by
  unfold writeBack
  split
  · exact confined_setReg s rn target
  · exact .refl s

theorem confined_writeLoaded (s : State) (user : Bool) (rs : List Reg) (vs : List Word) :
    Confined s (writeLoaded s user rs vs) := by
  induction rs generalizing s vs with
  | nil => exact .refl s
  | cons r rs ih =>
    cases vs with
    | nil => exact .refl s
    | cons v vs =>
      rw [writeLoaded]
      refine Confined.trans ?_ (ih _ vs)
      split
      · exact .refl s
      · split
        · exact confined_setUserReg s r v
        · exact confined_setReg s r v

/-! ## What an instruction can do to the privileged state -/

/-- Apart from an MSR outside User mode: nothing, one of the exceptions that instructions take, or a return from one. -/
inductive PrivilegeEffect (s t : State) : Prop where
  | confined (h : Confined s t)
  | entered (e : Exn) (he : e = .undefined ∨ e = .swi ∨ e = .dataAbort)
    (h : EnteredBesideMemory s t e.bank e.mode.bits (s.pc + e.linkOffset) e.vector (decide (e = .fiq)))
  | returned (h : s.spsrOf s.bank = some t.cpsr)

/-- `t` is `s` with another memory. -/
def OnlyMemory (s t : State) : Prop := ∃ m, t = s.setMem m

theorem OnlyMemory.refl (s : State) : OnlyMemory s s := ⟨s.mem, rfl⟩

theorem OnlyMemory.trans {s t u : State} (h : OnlyMemory s t) (h' : OnlyMemory t u) : OnlyMemory s u := by
  obtain ⟨_, rfl⟩ := h
  obtain ⟨m, rfl⟩ := h'
  exact ⟨m, rfl⟩

theorem OnlyMemory.confined {s t : State} (h : OnlyMemory s t) : Confined s t := by
  obtain ⟨m, rfl⟩ := h
  exact confined_setMem s m

/-- An abort after some words of a block store enters Data Abort as from the state before them (R173, D25). -/
theorem OnlyMemory.enteredBesideMemory {s t : State} (h : OnlyMemory s t) (e : Exn) :
    EnteredBesideMemory s (t.enter e) e.bank e.mode.bits (s.pc + e.linkOffset) e.vector (decide (e = .fiq)) := by
  obtain ⟨m, rfl⟩ := h
  exact ((s.setMem m).enter_entered e).1

/-- The attempt succeeds with such an effect, or aborts with nothing but memory changed. -/
def Attempt.HasEffect (s : State) (x : Attempt State) : Prop := x.EndsIn (PrivilegeEffect s) (OnlyMemory s)

/-- The attempt answers with nothing but memory changed. -/
def Attempt.OnlyStores (s : State) (x : Attempt State) : Prop := x.EndsIn (OnlyMemory s) (OnlyMemory s)

theorem Attempt.HasEffect.outcome {s t : State} {x : Attempt State} (h : x.HasEffect s) (ht : x.outcome = .next t) :
    PrivilegeEffect s t := by
  obtain ⟨hok, habort⟩ := h
  rcases Attempt.outcome_eq_next.mp ht with hx | ⟨u, hx, rfl⟩
  · exact hok t hx
  · exact .entered .dataAbort (.inr (.inr rfl)) ((habort u hx).enteredBesideMemory .dataAbort)

theorem hasEffect_andThen_read {α : Type} {s : State} {x : Attempt α} {k : α → Attempt State} (hx : x.OnlyReads s)
    (hk : ∀ a, (k a).HasEffect s) : (x.andThen k).HasEffect s :=
  Attempt.endsIn_andThen (P := fun _ => True) ⟨fun _ _ => trivial, fun t e => hx t e ▸ .refl s⟩ fun a _ => hk a

theorem hasEffect_enter (s : State) (e : Exn) (he : e = .undefined ∨ e = .swi ∨ e = .dataAbort) :
    (Attempt.ok (s.enter e)).HasEffect s :=
  Attempt.endsIn_ok (.entered e he (s.enter_entered e).1)

/-! ## The endings of an instruction -/

section
variable {s u : State} (hu : Confined s u)
include hu

theorem hasEffect_advance : u.advance.HasEffect s :=
  endsIn_require (Attempt.endsIn_ok (.confined (hu.trans (confined_setPc u _))))

theorem hasEffect_writePc (v : Word) : (u.writePc v).HasEffect s :=
  endsIn_require (Attempt.endsIn_ok (.confined (hu.trans (confined_jump u v))))

theorem hasEffect_putReg (r : Reg) (v : Word) : (u.putReg r v).HasEffect s := by
  unfold State.putReg
  split
  · exact hasEffect_writePc hu v
  · exact hasEffect_advance (hu.trans (confined_setReg u r v))

/-- A return restores the SPSR that the mode had before the instruction (R255). -/
theorem hasEffect_exceptionReturn (target : Word) : (u.exceptionReturn target).HasEffect s := by
  refine ⟨fun t e => ?_, fun t e => absurd e State.exceptionReturn_ne_abort⟩
  obtain ⟨p, hp, _, _, _, rfl⟩ := State.exceptionReturn_eq_ok.mp e
  rw [hu.bank_eq, hu.spsrs] at hp
  exact .returned hp

end

theorem hasEffect_conditional {c : Cond} {s t : State} {body : Attempt State} (hb : body.HasEffect s)
    (h : conditional c s body = .next t) : PrivilegeEffect s t := by
  unfold conditional at h
  split at h
  · exact hb.outcome h
  · exact (hasEffect_advance (.refl s)).outcome h

theorem hasEffect_dpWrite (s : State) (sb : Bool) (rd : Reg) (result : Word) (flags : Nzcv) :
    (dpWrite s sb rd result flags).HasEffect s := by
  have hrd := confined_setReg s rd result
  cases hp : isPc rd <;> cases sb <;> simp only [dpWrite, hp, if_true, if_false, Bool.false_eq_true]
  case false.false => exact hasEffect_advance hrd
  case false.true => exact hasEffect_advance (hrd.trans (confined_setFlags _ flags))
  case true.false => exact hasEffect_writePc (.refl s) result
  case true.true => exact hasEffect_exceptionReturn (.refl s) result

theorem hasEffect_setFlags (s : State) (f : Nzcv) : (s.setFlags f).advance.HasEffect s :=
  hasEffect_advance (confined_setFlags s f)

theorem hasEffect_finishMul (s : State) (sb : Bool) (rd : Reg) (result : Word) :
    (finishMul s sb rd result).HasEffect s := by
  have hrd := confined_setReg s rd result
  cases sb with
  | false => exact hasEffect_advance hrd
  | true => exact hasEffect_advance ((hrd.trans (confined_setFlags _ _)).trans (confined_drew _ 1))

theorem hasEffect_finishLong (s : State) (sb : Bool) (rdHi rdLo : Reg) (result : BitVec 64) :
    (finishLong s sb rdHi rdLo result).HasEffect s := by
  have hpair := (confined_setReg s rdLo (result.extractLsb' 0 32)).trans
    (confined_setReg _ rdHi (result.extractLsb' 32 32))
  cases sb with
  | false => exact hasEffect_advance hpair
  | true => exact hasEffect_advance ((hpair.trans (confined_setFlags _ _)).trans (confined_drew _ 2))

/-! ## Stores and transfers -/

theorem onlyStores_storeAligned (s : State) (a v : Word) : (s.storeAligned a v).OnlyStores s := by
  constructor
  · intro t e
    obtain ⟨_, rfl⟩ := State.storeAligned_eq_ok.mp e
    exact ⟨_, rfl⟩
  · intro t e
    obtain ⟨_, rfl⟩ := State.storeAligned_eq_abort.mp e
    exact .refl t

theorem onlyStores_storeWord (s : State) (a v : Word) : (s.storeWord a v).OnlyStores s :=
  Attempt.endsIn_andThen (P := fun _ => True) ⟨fun _ _ => trivial, fun _ e => absurd e State.wordAddress_ne_abort⟩
    fun b _ => onlyStores_storeAligned s b v

theorem onlyStores_storeHalf (s : State) (a : Word) (v : Half) : (s.storeHalf a v).OnlyStores s := by
  constructor
  · intro t e
    obtain ⟨_, _, rfl⟩ := State.storeHalf_eq_ok.mp e
    exact ⟨_, rfl⟩
  · intro t e
    obtain ⟨_, _, rfl⟩ := State.storeHalf_eq_abort.mp e
    exact .refl t

theorem onlyStores_storeByte (s : State) (a : Word) (v : Byte) : (s.storeByte a v).OnlyStores s := by
  constructor
  · intro t e
    obtain ⟨_, rfl⟩ := State.storeByte_eq_ok.mp e
    exact ⟨_, rfl⟩
  · intro t e
    obtain ⟨_, rfl⟩ := State.storeByte_eq_abort.mp e
    exact .refl t

theorem onlyStores_storeWords {s u : State} (hu : OnlyMemory s u) (a : Word) (vs : List Word) :
    (u.storeWords a vs).OnlyStores s := by
  induction vs generalizing u a with
  | nil => exact Attempt.endsIn_ok hu
  | cons v rest ih =>
    obtain ⟨hok, habort⟩ := onlyStores_storeAligned u a v
    exact Attempt.endsIn_andThen (P := OnlyMemory s) ⟨fun t e => hu.trans (hok t e), fun t e => hu.trans (habort t e)⟩
      fun t ht => ih ht (a + 4)

theorem hasEffect_loadEnd (s : State) (p w : Bool) (rn rd : Reg) (target v : Word) :
    ((writeBack s p w rn target).putReg rd v).HasEffect s :=
  hasEffect_putReg (confined_writeBack s p w rn target) rd v

theorem hasEffect_storeEnd {s t : State} (ht : OnlyMemory s t) (p w : Bool) (rn : Reg) (target : Word) :
    (writeBack t p w rn target).advance.HasEffect s :=
  hasEffect_advance (ht.confined.trans (confined_writeBack t p w rn target))

theorem hasEffect_loadSingle (s : State) (byte p u w : Bool) (rn rd : Reg) (offset : Word) :
    (loadSingle s byte p u w rn rd offset).HasEffect s := by
  cases byte with
  | false => exact hasEffect_andThen_read (onlyReads_loadWord s _) (hasEffect_loadEnd s p w rn rd _)
  | true => exact hasEffect_andThen_read (onlyReads_map _ (onlyReads_loadByte s _)) (hasEffect_loadEnd s p w rn rd _)

theorem hasEffect_storeSingle (s : State) (byte p u w : Bool) (rn rd : Reg) (offset : Word) :
    (storeSingle s byte p u w rn rd offset).HasEffect s := by
  cases byte with
  | false => exact Attempt.endsIn_andThen (onlyStores_storeWord s _ _) fun _ ht => hasEffect_storeEnd ht p w rn _
  | true => exact Attempt.endsIn_andThen (onlyStores_storeByte s _ _) fun _ ht => hasEffect_storeEnd ht p w rn _

theorem hasEffect_loadExtended {s : State} (p u w : Bool) (rn rd : Reg) (offset : Word)
    {datum : Word → Attempt Word} (hdatum : ∀ a, (datum a).OnlyReads s) :
    (loadExtended s p u w rn rd offset datum).HasEffect s :=
  hasEffect_andThen_read (hdatum _) (hasEffect_loadEnd s p w rn rd _)

theorem hasEffect_storeHalfword (s : State) (p u w : Bool) (rn rd : Reg) (offset : Word) :
    (storeHalfword s p u w rn rd offset).HasEffect s :=
  Attempt.endsIn_andThen (onlyStores_storeHalf s _ _) fun _ ht => hasEffect_storeEnd ht p w rn _

theorem hasEffect_swapWord (s : State) (rn rd rm : Reg) : (swapWord s rn rd rm).HasEffect s :=
  hasEffect_andThen_read (onlyReads_loadWord s _) fun v =>
    Attempt.endsIn_andThen (onlyStores_storeWord s _ _) fun t ht =>
      hasEffect_advance (ht.confined.trans (confined_setReg t rd v))

theorem hasEffect_swapByte (s : State) (rn rd rm : Reg) : (swapByte s rn rd rm).HasEffect s :=
  hasEffect_andThen_read (onlyReads_loadByte s _) fun _ =>
    Attempt.endsIn_andThen (onlyStores_storeByte s _ _) fun t ht =>
      hasEffect_advance (ht.confined.trans (confined_setReg t rd _))

theorem hasEffect_ldm (s : State) (m : BlockMode) (sb w : Bool) (rn : Reg) (list : BitVec 16) :
    (ldm s m sb w rn list).HasEffect s := by
  refine hasEffect_andThen_read (onlyReads_wordAddress s _) fun base =>
    hasEffect_andThen_read (onlyReads_loadWords s _ _) fun vs => ?_
  have hbase : Confined s (if w then s.setReg rn (blockFinal m (s.reg rn) list) else s) := by
    cases w with
    | false => exact .refl s
    | true => exact confined_setReg s rn _
  have hloaded := hbase.trans (confined_writeLoaded _ (usesUserBank true sb list) (regsOf list) vs)
  cases hp : listHasPc list <;> cases sb <;> simp only [if_true, if_false, Bool.false_eq_true]
  case false.false | false.true => exact hasEffect_advance hloaded
  case true.false => exact hasEffect_writePc hloaded _
  case true.true => exact hasEffect_exceptionReturn hloaded _

theorem hasEffect_stm (s : State) (m : BlockMode) (sb w : Bool) (rn : Reg) (list : BitVec 16) :
    (stm s m sb w rn list).HasEffect s :=
  hasEffect_andThen_read (onlyReads_wordAddress s _) fun base =>
    Attempt.endsIn_andThen (onlyStores_storeWords (.refl s) _ _) fun t ht => by
      cases w with
      | false => exact hasEffect_advance ht.confined
      | true => exact hasEffect_advance (ht.confined.trans (confined_setReg t rn _))

/-! ## MSR (R142, R261) -/

section
variable {s t : State} {spsr : Bool} {fields : BitVec 4} {v : Word}

theorem State.bank_of_user (h : psrM s.cpsr = 0b10000#5) : s.bank = .usr := congrArg bankOf h

theorem msr_eq_ok :
    msr s spsr fields v = .ok t ↔
      ∃ u, (if spsr then writeSpsrFields s fields v else writeCpsrFields s fields v) = .ok u ∧ u.advance = .ok t :=
  Attempt.andThen_eq_ok

/-- An MSR to the CPSR that is not refused writes the bits it may. -/
theorem writeCpsrFields_eq_ok (h : writeCpsrFields s fields v = .ok t) :
    t = s.setCpsr (mergeBits s.cpsr v (cpsrMask s fields &&& 0xF00000DF#32)) := by
  by_cases hctl : field (cpsrMask s fields) 0 8 = 0#8 <;> simp only [writeCpsrFields, hctl, if_true, if_false] at h
  · exact (Attempt.ok.inj h).symm
  · obtain ⟨_, h⟩ := require_eq_ok.mp h
    obtain ⟨_, h⟩ := require_eq_ok.mp h
    exact (Attempt.ok.inj h).symm

theorem writeSpsrFields_eq_ok (h : writeSpsrFields s fields v = .ok t) :
    s.spsrOf s.bank ≠ none ∧ ∃ w, t = s.setSpsr s.bank w := by
  cases hspsr : s.spsrOf s.bank with
  | none =>
    rw [writeSpsrFields_of_none hspsr] at h
    cases h
  | some old =>
    rw [writeSpsrFields_of_some hspsr] at h
    exact ⟨Option.some_ne_none old, _, (Attempt.ok.inj h).symm⟩

theorem writeCpsrFields_ne_abort : writeCpsrFields s fields v ≠ .abort t := by
  by_cases hctl : field (cpsrMask s fields) 0 8 = 0#8 <;> simp [writeCpsrFields, hctl, require_eq_abort]

theorem writeSpsrFields_ne_abort : writeSpsrFields s fields v ≠ .abort t := by
  cases hspsr : s.spsrOf s.bank <;> simp [writeSpsrFields, hspsr]

theorem msr_ne_abort : msr s spsr fields v ≠ .abort t := by
  intro h
  rcases Attempt.andThen_eq_abort.mp h with h | ⟨u, _, h⟩
  · cases spsr with
    | false => exact writeCpsrFields_ne_abort h
    | true => exact writeSpsrFields_ne_abort h
  · exact State.advance_ne_abort h

/-- In User mode an MSR that is not refused writes flags (R261). -/
theorem confined_msr_of_user (husr : psrM s.cpsr = 0b10000#5) (h : msr s spsr fields v = .ok t) : Confined s t := by
  obtain ⟨u, hu, ht⟩ := msr_eq_ok.mp h
  obtain ⟨_, rfl⟩ := State.advance_eq_ok.mp ht
  refine Confined.trans ?_ (confined_setPc u _)
  cases spsr with
  | false =>
    obtain rfl := Attempt.ok.inj ((writeCpsrFields_of_user husr).symm.trans hu)
    exact ⟨field_merge_of_kept _ _ _ rfl, fun _ => rfl, fun _ _ _ => rfl⟩
  | true =>
    obtain ⟨hspsr, _⟩ := writeSpsrFields_eq_ok hu
    rw [State.bank_of_user husr] at hspsr
    exact absurd rfl hspsr

/-- Outside User mode an MSR changes the mode through the control field of the CPSR alone. -/
theorem psrM_msr_of_privileged (hpriv : psrM s.cpsr ≠ 0b10000#5) (h : msr s spsr fields v = .ok t) :
    psrM t.cpsr = psrM s.cpsr ∨ (spsr = false ∧ fields.getLsbD 0 = true ∧ psrM t.cpsr = psrM v) := by
  obtain ⟨u, hu, ht⟩ := msr_eq_ok.mp h
  obtain ⟨_, rfl⟩ := State.advance_eq_ok.mp ht
  cases spsr with
  | false =>
    obtain rfl := writeCpsrFields_eq_ok hu
    have hmode := psrM_msr s fields v
    cases hctl : fields.getLsbD 0 with
    | false => exact .inl (hmode.trans (if_pos ((field_cpsrMask_of_privileged hpriv).mpr hctl)))
    | true =>
      have hmask : field (cpsrMask s fields) 0 8 ≠ 0#8 :=
        mt (field_cpsrMask_of_privileged hpriv).mp (ne_false_of_eq_true hctl)
      exact .inr ⟨rfl, rfl, hmode.trans (if_neg hmask)⟩
  | true =>
    obtain ⟨_, w, rfl⟩ := writeSpsrFields_eq_ok hu
    exact .inl (congrArg psrM (s.setSpsr_cpsr s.bank w))

end

/-! ## Every instruction -/

/-- The instruction is an MSR that is run: `t` is what it makes of its operand. -/
def MsrRun (i : Instr) (s t : State) : Prop :=
  ∃ (x : MsrOperand) (c : Cond) (spsr : Bool) (fields : BitVec 4),
    i = x.instr c spsr fields ∧ msr s spsr fields (x.value s) = .ok t

/-- An MSR whose condition fails advances the pc, an ill-formed one is refused, and any other is run. -/
theorem exec_msr_eq_next {x : MsrOperand} {c : Cond} {spsr : Bool} {fields : BitVec 4} {s t : State}
    (h : exec (x.instr c spsr fields) s = .next t) :
    PrivilegeEffect s t ∨ MsrRun (x.instr c spsr fields) s t := by
  cases hcond : condPassed (x.instr c spsr fields).cond s.cpsr with
  | false =>
    rw [exec_failed hcond] at h
    exact .inl ((hasEffect_advance (.refl s)).outcome h)
  | true =>
    cases hwf : (x.instr c spsr fields).wellFormed with
    | false => rcases illFormedIsRefused _ s hwf hcond with hr | hr | hr <;> rw [hr] at h <;> cases h
    | true =>
      rw [exec_msr ((runs_iff _ s).mpr ⟨hcond, hwf⟩)] at h
      rcases Attempt.outcome_eq_next.mp h with hmsr | ⟨u, habort, _⟩
      · exact .inr ⟨x, c, spsr, fields, rfl, hmsr⟩
      · exact absurd habort msr_ne_abort

/-- What an instruction can have done to the privileged state. -/
theorem exec_eq_next {i : Instr} {s t : State} (h : exec i s = .next t) : PrivilegeEffect s t ∨ MsrRun i s t := by
  cases i with
  | msrReg c spsr fields rm => exact exec_msr_eq_next (x := .reg rm) h
  | msrImm c spsr fields rot imm8 => exact exec_msr_eq_next (x := .imm rot imm8) h
  | andImm | eorImm | subImm | rsbImm | addImm | adcImm | sbcImm | rscImm | orrImm | movImm | bicImm | mvnImm
  | andShiftImm | eorShiftImm | subShiftImm | rsbShiftImm | addShiftImm | adcShiftImm | sbcShiftImm | rscShiftImm
  | orrShiftImm | movShiftImm | bicShiftImm | mvnShiftImm =>
    exact .inl (hasEffect_conditional (hasEffect_dpWrite s _ _ _ _) h)
  | andShiftReg | eorShiftReg | subShiftReg | rsbShiftReg | addShiftReg | adcShiftReg | sbcShiftReg | rscShiftReg
  | orrShiftReg | movShiftReg | bicShiftReg | mvnShiftReg =>
    exact .inl (hasEffect_conditional (endsIn_require (hasEffect_dpWrite s _ _ _ _)) h)
  | tstImm | teqImm | cmpImm | cmnImm | tstShiftImm | teqShiftImm | cmpShiftImm | cmnShiftImm =>
    exact .inl (hasEffect_conditional (hasEffect_setFlags s _) h)
  | tstShiftReg | teqShiftReg | cmpShiftReg | cmnShiftReg =>
    exact .inl (hasEffect_conditional (endsIn_require (hasEffect_setFlags s _)) h)
  | mrs =>
    exact .inl (hasEffect_conditional (endsIn_require
      (hasEffect_andThen_read (onlyReads_readPsr s _) fun v => hasEffect_advance (confined_setReg s _ v))) h)
  | mul | mla => exact .inl (hasEffect_conditional (endsIn_require (hasEffect_finishMul s _ _ _)) h)
  | umull | umlal | smull | smlal =>
    exact .inl (hasEffect_conditional (endsIn_require (hasEffect_finishLong s _ _ _ _)) h)
  | swp => exact .inl (hasEffect_conditional (endsIn_require (hasEffect_swapWord s _ _ _)) h)
  | swpb => exact .inl (hasEffect_conditional (endsIn_require (hasEffect_swapByte s _ _ _)) h)
  | bx => exact .inl (hasEffect_conditional (endsIn_require (endsIn_require (hasEffect_writePc (.refl s) _))) h)
  | b => exact .inl (hasEffect_conditional (hasEffect_writePc (.refl s) _) h)
  | bl => exact .inl (hasEffect_conditional (hasEffect_writePc (confined_setReg s _ _) _) h)
  | ldrhReg | ldrhImm =>
    exact .inl (hasEffect_conditional
      (endsIn_require (endsIn_require (hasEffect_loadExtended _ _ _ _ _ _ (onlyReads_halfUnsigned s)))) h)
  | ldrsbReg | ldrsbImm =>
    exact .inl (hasEffect_conditional
      (endsIn_require (endsIn_require (hasEffect_loadExtended _ _ _ _ _ _ (onlyReads_byteSigned s)))) h)
  | ldrshReg | ldrshImm =>
    exact .inl (hasEffect_conditional
      (endsIn_require (endsIn_require (hasEffect_loadExtended _ _ _ _ _ _ (onlyReads_halfSigned s)))) h)
  | strhReg | strhImm =>
    exact .inl (hasEffect_conditional (endsIn_require (endsIn_require (hasEffect_storeHalfword s _ _ _ _ _ _))) h)
  | ldrImm | ldrbImm | ldrReg | ldrbReg =>
    exact .inl (hasEffect_conditional (endsIn_require (endsIn_require (hasEffect_loadSingle s _ _ _ _ _ _ _))) h)
  | strImm | strbImm | strReg | strbReg =>
    exact .inl (hasEffect_conditional (endsIn_require (endsIn_require (hasEffect_storeSingle s _ _ _ _ _ _ _))) h)
  | ldmia | ldmib | ldmda | ldmdb =>
    exact .inl (hasEffect_conditional
      (endsIn_require (endsIn_require (endsIn_require (hasEffect_ldm s _ _ _ _ _)))) h)
  | stmia | stmib | stmda | stmdb =>
    exact .inl (hasEffect_conditional
      (endsIn_require (endsIn_require (endsIn_require (hasEffect_stm s _ _ _ _ _)))) h)
  | ldc | stc | cdp | mrc | mcr | undefined =>
    exact .inl (hasEffect_conditional (hasEffect_enter s .undefined (.inl rfl)) h)
  | swi => exact .inl (hasEffect_conditional (hasEffect_enter s .swi (.inr (.inl rfl))) h)

/-- In User mode, which has no SPSR to return by, that leaves nothing or an exception (R36). -/
theorem PrivilegeEffect.of_user {s t : State} (husr : psrM s.cpsr = 0b10000#5) (h : PrivilegeEffect s t) :
    Confined s t ∨ ∃ e : Exn, (e = .undefined ∨ e = .swi ∨ e = .dataAbort) ∧ t.pc = e.vector ∧
      t.spsrOf e.bank = some s.cpsr ∧ psrM t.cpsr = e.mode.bits := by
  cases h with
  | confined h => exact .inl h
  | entered e he h =>
    obtain ⟨_, hspsr, ⟨hpc, _⟩, hmode, _⟩ := h
    exact .inr ⟨e, he, hpc, hspsr, hmode⟩
  | returned h =>
    rw [State.bank_of_user husr] at h
    cases h

/-- Settles O59: an instruction that takes no exception stays confined, since User mode has no SPSR to return by and its
MSR writes flags. -/
theorem userModeIsConfined : Obligations.UserModeIsConfined := by
  intro i s t husr h
  have heffect : PrivilegeEffect s t := by
    rcases exec_eq_next h with heffect | ⟨x, c, spsr, fields, _, hmsr⟩
    · exact heffect
    · exact .confined (confined_msr_of_user husr hmsr)
  rcases heffect.of_user husr with hconf | ⟨e, he, hentry⟩
  · refine .inl ⟨hconf.control, hconf.spsrs, fun p hp => hconf.regs p ?_ hp⟩
    rwa [State.bank_of_user husr]
  · rcases he with rfl | rfl | rfl
    · exact .inr (.inl hentry)
    · exact .inr (.inr (.inl hentry))
    · exact .inr (.inr (.inr hentry))

/-! ## The step (R256, R263) -/

theorem spsrOf_bankOf_of_entered {s t : State} {e : Exn} (hmode : psrM t.cpsr = e.mode.bits)
    (hspsr : t.spsrOf e.bank = some s.cpsr) : t.spsrOf (bankOf (psrM t.cpsr)) = some s.cpsr := by
  rw [hmode, bankOf_mode_bits, hspsr]

/-- The entry of an exception saves the CPSR in the SPSR of the mode entered. -/
theorem State.enter_spsrOf_bankOf (s : State) (e : Exn) :
    (s.enter e).spsrOf (bankOf (psrM (s.enter e).cpsr)) = some s.cpsr :=
  spsrOf_bankOf_of_entered (psrM_entryPsr e s.cpsr) (s.enter_spsrOf_self e)

/-- An effect that changes the mode is an entry or a return. -/
theorem PrivilegeEffect.of_psrM_ne {s t : State} (h : PrivilegeEffect s t) (hne : psrM t.cpsr ≠ psrM s.cpsr) :
    t.spsrOf (bankOf (psrM t.cpsr)) = some s.cpsr ∨ s.spsrOf s.bank = some t.cpsr := by
  cases h with
  | confined h => exact absurd h.psrM_eq hne
  | entered e _ h =>
    obtain ⟨_, hspsr, _, hmode, _⟩ := h
    exact .inl (spsrOf_bankOf_of_entered hmode hspsr)
  | returned h => exact .inr h

theorem runReserved_effect {c : Cond} {s t : State} (h : runReserved c s = .next t) : PrivilegeEffect s t := by
  refine hasEffect_conditional ?_ h
  cases s.platform.reserved with
  | refuse => exact Attempt.endsIn_refused .reservedWord
  | undefinedTrap => exact hasEffect_enter s .undefined (.inl rfl)

/-- The word run can change the mode by an entry, a return or an MSR outside User mode. -/
theorem runWord_psrM_ne {w : Word} {s t : State} (h : runWord w s = .next t) (hne : psrM t.cpsr ≠ psrM s.cpsr) :
    t.spsrOf (bankOf (psrM t.cpsr)) = some s.cpsr ∨ s.spsrOf s.bank = some t.cpsr ∨
      (psrM s.cpsr ≠ 0b10000#5 ∧ ∃ (x : MsrOperand) (c : Cond) (fields : BitVec 4),
        decode w = .ok (x.instr c false fields) ∧ fields.getLsbD 0 = true ∧ psrM t.cpsr = psrM (x.value s)) := by
  rcases runWord_eq_next h with ⟨i, hi, hexec⟩ | ⟨c, _, hreserved⟩
  · rcases exec_eq_next hexec with heffect | ⟨x, c, spsr, fields, rfl, hmsr⟩
    · exact (heffect.of_psrM_ne hne).imp_right .inl
    · have hpriv : psrM s.cpsr ≠ 0b10000#5 := fun husr => hne (confined_msr_of_user husr hmsr).psrM_eq
      rcases psrM_msr_of_privileged hpriv hmsr with hsame | ⟨rfl, hctl, hmode⟩
      · exact absurd hsame hne
      · exact .inr (.inr ⟨hpriv, x, c, fields, hi, hctl, hmode⟩)
  · exact ((runReserved_effect hreserved).of_psrM_ne hne).imp_right .inl

theorem State.fetch_eq_word {s : State} {w : Word} (h : s.fetch = .word w) : w = s.wordNow := by
  unfold State.fetch at h
  split at h
  · cases h
  · split at h
    · cases h
    · exact (Fetched.word.inj h).symm

theorem MsrOperand.value_fetchAhead (x : MsrOperand) (s : State) : x.value s.fetchAhead = x.value s := by
  cases x <;> rfl

/-- Settles O60: the reset, the entries before the fetch, and the word run; the environment's move touches no register. -/
theorem modeChanges : Obligations.ModeChanges := by
  intro s t h hne
  obtain ⟨u, hu, rfl⟩ := step_eq_next h
  have hcpsr : u.tick.cpsr = u.cpsr := by rw [u.tick_eq]
  have hspsr (b : Bank) : u.tick.spsrOf b = u.spsrOf b := by rw [u.tick_eq]; rfl
  rw [hcpsr] at hne
  rw [hcpsr, hspsr]
  rcases stepCore_eq_next hu with ⟨hreset, _⟩ | ⟨e, _, rfl⟩ | ⟨_, rfl⟩ | ⟨w, hw, hrun⟩
  · exact .inl hreset
  · exact .inr (.inl (s.enter_spsrOf_bankOf e))
  · exact .inr (.inl (s.enter_spsrOf_bankOf .prefetchAbort))
  · refine .inr ((runWord_psrM_ne hrun hne).imp_right (Or.imp_right ?_))
    rintro ⟨hpriv, x, c, fields, hi, hctl, hmode⟩
    rw [State.fetch_eq_word hw, ← nextInstr_eq_decode] at hi
    exact ⟨hpriv, x, c, fields, hi, hctl, hmode.trans (congrArg psrM (x.value_fetchAhead s))⟩

end Sys2Proof.Machine
end

section
/-! PROOFS. Halfword and signed data transfer (47_halfword_transfer.md): the operand combinations let through, the datum each
load gives, and LDRH, LDRSH, LDRSB and STRH as the datum moved and then the ending of `Laws/Transfers`. -/

namespace Sys2Proof.Machine

/-! ## The operand combinations let through (R217) -/

section
variable {p w : Bool} {rn rd : Reg}

theorem halfImmOk_iff : halfImmOk p w rn rd = true ↔ writeBackOk p w rn rd = true ∧ rd ≠ 15#4 := by
  rw [halfImmOk, Bool.and_eq_true, Bool.not_eq_true', isPc_eq_false]

/-- The operand combinations the spec lets through, with this form of the offset. -/
def HalfOffset.allowed (x : HalfOffset) (p w : Bool) (rn rd : Reg) : Bool :=
  match x with
  | .imm _ => halfImmOk p w rn rd
  | .reg rm => halfRegOk p w rn rd rm

/-- The register form makes the checks of the immediate form, and one more. -/
theorem HalfOffset.halfImmOk_of_allowed {x : HalfOffset} (h : x.allowed p w rn rd = true) :
    halfImmOk p w rn rd = true := by
  cases x with
  | imm off => exact h
  | reg rm => exact ((Bool.and_eq_true _ _).mp h).1

theorem HalfOffset.wellFormed_ldrh (x : HalfOffset) (c : Cond) (p u w : Bool) (rn rd : Reg) :
    (x.ldrh c p u w rn rd).wellFormed = (!userTransfer p w && x.allowed p w rn rd) := by
  cases x <;> rfl

theorem HalfOffset.wellFormed_ldrsh (x : HalfOffset) (c : Cond) (p u w : Bool) (rn rd : Reg) :
    (x.ldrsh c p u w rn rd).wellFormed = (!userTransfer p w && x.allowed p w rn rd) := by
  cases x <;> rfl

theorem HalfOffset.wellFormed_ldrsb (x : HalfOffset) (c : Cond) (p u w : Bool) (rn rd : Reg) :
    (x.ldrsb c p u w rn rd).wellFormed = (!userTransfer p w && x.allowed p w rn rd) := by
  cases x <;> rfl

theorem HalfOffset.wellFormed_strh (x : HalfOffset) (c : Cond) (p u w : Bool) (rn rd : Reg) :
    (x.strh c p u w rn rd).wellFormed = (!userTransfer p w && x.allowed p w rn rd) := by
  cases x <;> rfl

/-- A halfword or signed transfer that runs may write its base back, and its Rd is not R15. -/
theorem HalfOffset.writeBackOk_and_ne_of_runs {x : HalfOffset} {i : Instr} {s : State} (h : runs i s = true)
    (hwf : i.wellFormed = (!userTransfer p w && x.allowed p w rn rd)) : writeBackOk p w rn rd = true ∧ rd ≠ 15#4 := by
  obtain ⟨_, hok⟩ := (runs_iff i s).mp h
  rw [hwf, Bool.and_eq_true] at hok
  exact halfImmOk_iff.mp (HalfOffset.halfImmOk_of_allowed hok.2)

end

/-! ## The datum loaded (R213, R215, R216) -/

section
variable {s : State} {a : Word}

theorem State.halfUnsigned_ok (ha : a.getLsbD 0 = false) (hr : readable s a 2 = true) :
    s.halfUnsigned a = .ok ((s.mem.half s.platform.bigEndian a).zeroExtend 32) := by
  rw [State.halfUnsigned, State.loadHalf_ok ha hr, Attempt.andThen_ok]

theorem State.halfSigned_ok (ha : a.getLsbD 0 = false) (hr : readable s a 2 = true) :
    s.halfSigned a = .ok ((s.mem.half s.platform.bigEndian a).signExtend 32) := by
  rw [State.halfSigned, State.loadHalf_ok ha hr, Attempt.andThen_ok]

theorem State.byteSigned_ok (hr : readable s a 1 = true) : s.byteSigned a = .ok ((s.mem.read a).signExtend 32) := by
  rw [State.byteSigned, State.loadByte_ok hr, Attempt.andThen_ok]

end

/-- An instruction that is a load of an extended datum writes it to Rd. -/
theorem exec_of_loadExtended {i : Instr} {s : State} {p u w : Bool} {rn rd : Reg} {offset v : Word}
    {datum : Word → Attempt Word} (he : exec i s = (loadExtended s p u w rn rd offset datum).outcome)
    (hv : datum (transferAddress s p u rn offset) = .ok v) (hok : writeBackOk p w rn rd = true ∧ rd ≠ 15#4)
    (hpc : fallsThrough s = true) :
    ∃ t, exec i s = .next t ∧ t.phys (physReg s.bank rd) = v ∧ BaseAfter s t p u w rn offset ∧
      Plain s t (physReg s.bank rd :: baseMoved s p w rn) := by
  obtain ⟨hwb, hrd⟩ := hok
  obtain ⟨t, ht, hdone⟩ := State.loadEnd u offset v hrd hwb hpc
  refine ⟨t, ?_, hdone⟩
  rw [he, loadExtended, hv, Attempt.andThen_ok, ht, Attempt.outcome_ok]

/-- Settles O39: zero extension keeps the value of the datum, sign extension its value in two's complement. -/
theorem halfwordAndSignedLoads : Obligations.HalfwordAndSignedLoads := by
  intro x c p u w rn rd s hpc
  refine ⟨fun h ha hr => ?_, fun h ha hr => ?_, fun h hr => ?_⟩
  · have hok := HalfOffset.writeBackOk_and_ne_of_runs h (x.wellFormed_ldrh c p u w rn rd)
    obtain ⟨t, ht, hrd, hdone⟩ := exec_of_loadExtended (exec_ldrh h) (State.halfUnsigned_ok ha hr) hok hpc
    refine ⟨t, ht, ?_, hdone⟩
    rw [hrd, BitVec.zeroExtend, BitVec.toNat_setWidth_of_le (by decide)]
  · have hok := HalfOffset.writeBackOk_and_ne_of_runs h (x.wellFormed_ldrsh c p u w rn rd)
    obtain ⟨t, ht, hrd, hdone⟩ := exec_of_loadExtended (exec_ldrsh h) (State.halfSigned_ok ha hr) hok hpc
    refine ⟨t, ht, ?_, hdone⟩
    rw [hrd, BitVec.toInt_signExtend_of_le (by decide)]
  · have hok := HalfOffset.writeBackOk_and_ne_of_runs h (x.wellFormed_ldrsb c p u w rn rd)
    obtain ⟨t, ht, hrd, hdone⟩ := exec_of_loadExtended (exec_ldrsb h) (State.byteSigned_ok hr) hok hpc
    refine ⟨t, ht, ?_, hdone⟩
    rw [hrd, BitVec.toInt_signExtend_of_le (by decide)]

/-! ## The halfword stored (R214) -/

theorem storeHalfword_ok {s : State} {p u : Bool} {rn : Reg} {offset : Word} (w : Bool) (rd : Reg)
    (ha : (transferAddress s p u rn offset).getLsbD 0 = false)
    (hw : writable s (transferAddress s p u rn offset) 2 = true) :
    storeHalfword s p u w rn rd offset =
      (writeBack (s.setMem (s.mem.setHalf s.platform.bigEndian (transferAddress s p u rn offset)
        (field (s.reg12 rd) 0 16))) p w rn (transferTarget s u rn offset)).advance := by
  rw [storeHalfword, State.storeHalf_eq_ok.mpr ⟨ha, hw, rfl⟩, Attempt.andThen_ok, field]

/-- Settles O40: the halfword stored reads back, and the write-back leaves memory alone. -/
theorem halfwordStore : Obligations.HalfwordStore := by
  intro x c p u w rn rd s hm h hpc ha hw
  obtain ⟨_, hrd⟩ := HalfOffset.writeBackOk_and_ne_of_runs h (x.wellFormed_strh c p u w rn rd)
  rw [← s.reg12_of_ne hrd, exec_strh h, storeHalfword_ok w rd ha hw]
  obtain ⟨t, ht, hmem, hdone⟩ := State.storeEnd (p := p) (w := w) u (rn := rn) (x.value s)
    (s.mem.setHalf s.platform.bigEndian (transferAddress s p u rn (x.value s)) (field (s.reg12 rd) 0 16)) hpc
  refine ⟨t, by rw [ht, Attempt.outcome_ok], ?_, fun b hb => ?_, hdone⟩
  · rw [hmem, Memory.half_setHalf hm]
  · rw [hmem, Memory.read_setHalf_outside _ _ _ _ _ hb]

/-! ## An aborted access (R247, D25) -/

theorem AccessForm.alignedOk_of_half {f : AccessForm} {s : State} (hwidth : f.width = 2)
    (ha : (f.address s).getLsbD 0 = false) : f.alignedOk s = true := by
  rw [AccessForm.alignedOk, hwidth, ha]
  rfl

theorem AccessForm.exec_abort_first {f : AccessForm} {c : Cond} {s : State} (h : runs (f.instr c) s = true)
    (hal : f.alignedOk s = true) (habort : s.platform.abortsAt f.firstKind (f.seen s) f.width = true) :
    ∃ t, exec (f.instr c) s = .next t ∧ DataAborted s t :=
  (AccessForm.begins_first h).exec_abort hal habort

/-- Settles O41: each of the eight instructions comes to its access first, from the state as it was. -/
theorem dataAbortEntry : Obligations.DataAbortEntry := by
  intro x y c p u w rn rd s
  refine ⟨?_, ?_, ?_, ?_, ?_, ?_, ?_, ?_⟩
  · exact AccessForm.exec_abort_first (f := .ldr x p u w rn rd)
  · exact AccessForm.exec_abort_first (f := .str x p u w rn rd)
  · exact fun h => AccessForm.exec_abort_first (f := .ldrb x p u w rn rd) h rfl
  · exact fun h => AccessForm.exec_abort_first (f := .strb x p u w rn rd) h rfl
  · exact fun h ha => AccessForm.exec_abort_first (f := .ldrh y p u w rn rd) h (AccessForm.alignedOk_of_half rfl ha)
  · exact fun h ha => AccessForm.exec_abort_first (f := .ldrsh y p u w rn rd) h (AccessForm.alignedOk_of_half rfl ha)
  · exact fun h => AccessForm.exec_abort_first (f := .ldrsb y p u w rn rd) h rfl
  · exact fun h ha => AccessForm.exec_abort_first (f := .strh y p u w rn rd) h (AccessForm.alignedOk_of_half rfl ha)

end Sys2Proof.Machine
end

section
/-! PROOFS. Resets, exceptions taken at a boundary and by instructions, and the return from each (70_reset_and_hazards.md
R280, 48_coprocessor_swi_undefined.md, 60_exceptions.md R243 to R255). -/

namespace Sys2Proof.Machine

/-! ## Reset (R280) -/

/-- Settles O1: the fields of the CPSR 0x000000D3. -/
theorem resetValues : Obligations.ResetValues := ⟨rfl, rfl, rfl, rfl, rfl⟩

/-- What a reset event fixes of the pc, the words fetched ahead and the CPSR (D29). -/
theorem State.takeReset_core (s : State) :
    s.takeReset.pc = 0x00000000#32 ∧ s.takeReset.prefetched = none ∧ s.takeReset.cpsr = resetPsr (s.draws + 30) := by
  simp [State.takeReset]

/-- A reset event draws nothing of what the environment drives and of the parameters (logs 12 and 13). -/
theorem State.takeReset_surroundings (s : State) : SameSurroundings s s.takeReset := by
  simp [SameSurroundings, State.takeReset]

theorem step_of_reset {s : State} (hended : s.ended = false) (hreset : s.lines.reset = true) :
    step s = .next s.takeReset.tick := by
  simp [step, tickOutcome, stepCore, hended, hreset]

/-- Settles O3: the CPSR is `resetPsr`, and what is drawn over memory spares program text. -/
theorem resetEvent : Obligations.ResetEvent := by
  intro s hended hreset
  obtain ⟨hpc, hahead, hcpsr⟩ := s.takeReset_core
  refine ⟨s.takeReset, step_of_reset hended hreset, ⟨hpc, hahead⟩, ?_, ?_, ?_, ?_, ?_, s.takeReset_surroundings,
    (TextKept.takeReset s).bytes⟩ <;> rw [hcpsr]
  · exact psrM_resetPsr _
  · exact psrI_resetPsr _
  · exact psrF_resetPsr _
  · exact psrT_resetPsr _
  · exact of_decide_eq_true (psrClean_resetPsr _)

/-! ## Interrupts and the aborted fetch (R246, R250) -/

theorem step_of_interrupt {s : State} {e : Exn} (hended : s.ended = false) (hreset : s.lines.reset = false)
    (hint : s.interrupt = some e) : step s = .next (s.enter e).tick := by
  simp [step, tickOutcome, stepCore, hended, hreset, hint]

theorem State.interrupt_of_fiq {s : State} (hline : s.lines.fiq = true) (hmask : psrF s.cpsr = false) :
    s.interrupt = some .fiq := by
  simp [State.interrupt, hline, hmask]

/-- IRQ is taken where FIQ is not. -/
theorem State.interrupt_of_irq {s : State} (hline : s.lines.irq = true) (hmask : psrI s.cpsr = false)
    (hfiq : s.lines.fiq = false ∨ psrF s.cpsr = true) : s.interrupt = some .irq := by
  rcases hfiq with hfiq | hfiq <;> simp [State.interrupt, hline, hmask, hfiq]

/-- Settles O9: the interrupt taken is FIQ where its line is up and not masked, and else IRQ. -/
theorem interruptEntry : Obligations.InterruptEntry := by
  intro s hended hreset
  refine ⟨fun hline hmask => ⟨s.enter .fiq, ?_, s.enter_entered .fiq⟩,
    fun hline hmask hfiq => ⟨s.enter .irq, ?_, s.enter_entered .irq⟩⟩
  · exact step_of_interrupt hended hreset (State.interrupt_of_fiq hline hmask)
  · exact step_of_interrupt hended hreset (State.interrupt_of_irq hline hmask hfiq)

theorem step_of_fetchAbort {s : State} (hs : reachesFetch s = true) (habort : s.platform.abortsAt .fetch s.pc 4 = true) :
    step s = .next (s.enter .prefetchAbort).tick := by
  obtain ⟨hended, hreset, hint⟩ := (reachesFetch_iff s).mp hs
  simp [step, tickOutcome, stepCore, State.fetch, hended, hreset, hint, habort]

/-- Settles O10: the abort claims the fetch before the word is looked at. -/
theorem fetchAbort : Obligations.FetchAbort := fun s hs habort =>
  ⟨s.enter .prefetchAbort, step_of_fetchAbort hs habort, s.enter_entered .prefetchAbort⟩

/-! ## Instructions that trap (R221, R225, R227) -/

/-- An instruction whose meaning is an exception takes it where its condition passes. -/
theorem exec_of_trap {i : Instr} {s : State} {e : Exn} (he : exec i s = conditional i.cond s (.ok (s.enter e)))
    (hc : condPassed i.cond s.cpsr = true) :
    ∃ t, exec i s = .next t ∧
      Entered s t e.bank e.mode.bits (s.pc + e.linkOffset) e.vector (decide (e = .fiq)) :=
  ⟨s.enter e, by rw [he, conditional_passed hc, Attempt.outcome_ok], s.enter_entered e⟩

/-- Settles O55: no operand has a part in what these instructions do. -/
theorem instructionsThatTrap : Obligations.InstructionsThatTrap := by
  refine ⟨fun i s hi hc => ?_, fun c comment s hc => exec_of_trap (i := .swi c comment) (e := .swi) rfl hc⟩
  have he : exec i s = conditional i.cond s (.ok (s.enter .undefined)) := by
    rcases hi with ⟨_, _, _, _, _, _, _, _, _, rfl⟩ | ⟨_, _, _, _, _, _, _, _, _, rfl⟩ | ⟨_, _, _, _, _, _, _, rfl⟩ |
      ⟨_, _, _, _, _, _, _, rfl⟩ | ⟨_, _, _, _, _, _, _, rfl⟩ | ⟨_, _, _, rfl⟩ <;> rfl
  exact exec_of_trap he hc

/-! ## Returns (R253, R255) -/

/-- What the handler of an exception finds to return with: the link in its R14, and in its SPSR a CPSR that can be
restored. -/
structure CanReturn (s t : State) (link : Word) : Prop where
  link : t.phys (physReg t.bank 14#4) = link
  saved : t.spsrOf t.bank = some s.cpsr
  arm : psrT s.cpsr = false
  mode : Mode.ofBits (psrM s.cpsr) ≠ none

theorem EnteredBesideMemory.canReturn {s t : State} {bank : Bank} {mode : BitVec 5} {link vector : Word}
    {masksFiq : Bool} (h : EnteredBesideMemory s t bank mode link vector masksFiq) (hbank : bankOf mode = bank)
    (harm : psrT s.cpsr = false) (hmode : Mode.ofBits (psrM s.cpsr) ≠ none) : CanReturn s t link := by
  obtain ⟨hlink, hspsr, _, hm, _⟩ := h
  have ht : t.bank = bank := (congrArg bankOf hm).trans hbank
  exact ⟨ht ▸ hlink, ht ▸ hspsr, harm, hmode⟩

/-- A data processing instruction with S and Rd = R15 returns to its result, where that is aligned (R113). -/
theorem CanReturn.returnsTo {s t : State} {link target : Word} (h : CanReturn s t link) {op : DpOp} {x : Op2} {c : Cond}
    {rn : Reg} (hruns : runs (op.instr c true rn 15#4 x) t = true)
    (hresult : op.result (x.first t rn) (x.out t).value (psrC t.cpsr) = target) (hal : wordAligned target = true) :
    ReturnsTo s t (op.instr c true rn 15#4 x) target := by
  subst hresult
  obtain ⟨_, hreturn⟩ := dataProcessingReturn op x c rn t hruns
  obtain ⟨_, haligned⟩ := hreturn s.cpsr h.saved
  obtain ⟨_, _, hrestores⟩ := haligned hal
  obtain ⟨u, hu, hjump, hcpsr, hrest⟩ := hrestores h.arm h.mode
  exact ⟨u, hu, hcpsr, hjump, hrest⟩

/-- MOVS pc, r14 goes to the link. -/
theorem CanReturn.movs {s t : State} {link : Word} (h : CanReturn s t link) (hal : wordAligned link = true) :
    ReturnsTo s t movsPcR14 link := by
  have hvalue : (op2ShiftImm t 0#5 .lsl 14#4).value = link := (t.reg_of_ne (by decide)).trans h.link
  exact h.returnsTo (op := .mov) (x := .shiftImm 0#5 .lsl 14#4) (rn := 0#4) rfl hvalue hal

theorem rotatedImm_zero (imm8 : BitVec 8) : rotatedImm 0#4 imm8 = imm8.setWidth 32 := by
  apply BitVec.eq_of_getLsbD_eq
  intro i hi
  rw [getLsbD_rotatedImm _ _ i hi]
  exact congrArg _ (Nat.mod_eq_of_lt hi)

/-- SUBS pc, r14, #imm8 goes to the link less the constant. -/
theorem CanReturn.subs {s t : State} {link : Word} (h : CanReturn s t link) (imm8 : BitVec 8)
    (hal : wordAligned (link - imm8.setWidth 32) = true) :
    ReturnsTo s t (subsPcR14 imm8) (link - imm8.setWidth 32) := by
  have hvalue : t.phys (physReg t.bank 14#4) - rotatedImm 0#4 imm8 = link - imm8.setWidth 32 := by
    rw [h.link, rotatedImm_zero]
  exact h.returnsTo (op := .sub) (x := .imm 0#4 imm8) (rn := 14#4) rfl hvalue hal

/-- The same with the target given: the link is the constant past it. -/
theorem CanReturn.subs_to {s t : State} {target : Word} {imm8 : BitVec 8}
    (h : CanReturn s t (target + imm8.setWidth 32)) (hal : wordAligned target = true) :
    ReturnsTo s t (subsPcR14 imm8) target := by
  have htarget : target + imm8.setWidth 32 - imm8.setWidth 32 = target := BitVec.add_sub_cancel ..
  have hreturns := h.subs imm8
  rw [htarget] at hreturns
  exact hreturns hal

/-- Settles O56: each entry leaves what its return needs, and each return takes the offset of the link off again. -/
theorem returnRestores : Obligations.ReturnRestores := by
  refine ⟨fun s t harm hmode hpc => ⟨?_, ?_, ?_, ?_, ?_, ?_⟩,
    fun s t bank mode link vector masksFiq imm8 h hbank harm hmode hal => ?_⟩
  · exact fun h => (h.1.canReturn rfl harm hmode).movs (wordAligned_add_four hpc)
  · exact fun h => (h.1.canReturn rfl harm hmode).movs (wordAligned_add_four hpc)
  · exact fun h => (h.1.canReturn rfl harm hmode).subs_to (imm8 := 4#8) hpc
  · intro h
    have hreturn : CanReturn s t (s.pc + 8) := h.canReturn rfl harm hmode
    have hlink : s.pc + 8 = s.pc + 4 + BitVec.setWidth 32 4#8 := (BitVec.add_assoc s.pc 4 4).symm
    exact ⟨hreturn.subs_to (imm8 := 8#8) hpc, (hlink ▸ hreturn).subs_to (wordAligned_add_four hpc)⟩
  · exact fun h => (h.1.canReturn rfl harm hmode).subs_to (imm8 := 4#8) hpc
  · exact fun h => (h.1.canReturn rfl harm hmode).subs_to (imm8 := 4#8) hpc
  · exact (h.1.canReturn hbank harm hmode).subs imm8 hal

end Sys2Proof.Machine
end
